-- ==== Sys2Proof/Word.lean ====
section
/-! DEFINITION. Word.lean: the bit-vector types of PKTCODEC (spec R9, R10). -/

namespace Sys2Proof

/-- A byte is 8 bits (R10). -/
abbrev Byte := BitVec 8

/-- A 16-bit value: an EtherType, an identification, a checksum, a 16-bit wire word. -/
abbrev Half := BitVec 16

/-- A 32-bit value: a command word, a host address, a host register (R34, R40, R60). -/
abbrev Word := BitVec 32

/-- A finite sequence of bytes, index 0 first on the wire (R10). -/
abbrev Bytes := List Byte

end Sys2Proof
end

