-- ==== Sys2Proof/Syntax.lean ====
section
/-! DEFINITION. Syntax.lean: the commands of the opcode map (R65), their decoding outcomes (R66), the registers of the host
register map (R34) and the lines of a host script (R69). -/

namespace Sys2Proof

/-- `sel`, bit 8 of the command word: which Prefix Information set a PI command acts on (R61). -/
inductive PiSel where
  /-- `sel = 0`: the standalone PI set. -/
  | standalone
  /-- `sel = 1`: RA.PI, the set owned by the Router Advertisement. -/
  | routerAdv
  deriving DecidableEq, Repr

/-- The 32 commands of R65, one constructor per row of the opcode table. Every term is a legal command: `sel` is an
argument exactly where R65 marks it. -/
inductive Instr where
  | ethParse
  | ethSerialize
  | ipNew
  | ipParse
  | ipSerialize
  | ipCksum
  | ipSetTos
  | ipSetId
  | ipSetTtl
  | ipSetProto
  | ipSetSrc
  | ipSetDst
  | ipSetOptions
  | ipSetPayload
  | piCreate
  | piSerialize (sel : PiSel)
  | piSetOnlink (sel : PiSel)
  | piSetAuto (sel : PiSel)
  | piSetRouter (sel : PiSel)
  | piSetValidLt (sel : PiSel)
  | piSetPrefLt (sel : PiSel)
  | piSetPlen (sel : PiSel)
  | piSetPrefix (sel : PiSel)
  | raCreate
  | raSerialize
  | raSetChl
  | raSetManaged
  | raSetOther
  | raSetHomeagent
  | raSetDeflt
  | raSetReach
  | raSetRetrans
  deriving DecidableEq, Repr

/-- Why a command word is illegal (R66), in the order of the checks of R78. -/
inductive Illegal where
  /-- A bit of `rsv` (31:9) is set (R62). -/
  | reservedBits
  /-- The opcode is not in R65. -/
  | unknownOpcode
  /-- `sel = 1` on an opcode that is not marked "sel" (R61). -/
  | selNotAllowed
  deriving DecidableEq, Repr

/-- The registers of the host register map (R34), by the spec's names. -/
inductive Reg where
  | status | cmd | operand | ibufLen | obufLen | valid | cksum | bufMax
  | ethDstHi | ethDstLo | ethSrcHi | ethSrcLo | ethType | ethClass | ethPayLen
  | ipTos | ipId | ipFlags | ipFrag | ipTtl | ipProto | ipSrc | ipDst | ipOptLen | ipPayLen | ipIhl | ipTotlen
  | piPrefix (k : Fin 4) | piPlen | piFlags | piVlt | piPlt
  | rapiPrefix (k : Fin 4) | rapiPlen | rapiFlags | rapiVlt | rapiPlt
  | raChl | raFlags | raDeflt | raReach | raRetrans
  deriving DecidableEq, Repr

/-- One line of a host script (R69), the pseudo-instruction READOUT (R70), or the reset event (R147). The accesses are reads
and writes: there is no load-reserved, store-conditional or read-modify-write one (R55). LOAD and CMD (R70)
are expansions into these (Machine/Script.lean). -/
inductive HostAction where
  /-- `W32 a, v`: a 32-bit write. -/
  | w32 (addr data : Word)
  /-- `W8 a, v`: a byte write; bits 7:0 of the data are used (R43). -/
  | w8 (addr data : Word)
  /-- `R32 a`: a 32-bit read. -/
  | r32 (addr : Word)
  /-- `R8 a`: a byte read. -/
  | r8 (addr : Word)
  /-- `READOUT`: read OBUF_LEN, then that many OBUF bytes (R70; log entry 9). -/
  | readout
  /-- `BNE_STATUS c, label`: read STATUS and jump to the label if it is not `c` (R69). -/
  | bneStatus (code : Word) (target : Nat)
  /-- `label:` (R69); labels are numbered. -/
  | label (name : Nat)
  /-- The reset event of R147, which may occur between any two host accesses (log entry 10). -/
  | reset
  deriving DecidableEq, Repr

/-- A host script: its lines in order (R69). -/
abbrev Script := List HostAction

end Sys2Proof
end

