-- ==== Sys2Proof/WellFormed.lean ====
section
/-! DEFINITION. WellFormed.lean: the checks on raw command words (R60 to R62, R65, R66) and on the labels of host scripts
(R69; the access widths are checked in Machine/Script.lean). Every term of `Instr` is a legal command by its type, so an instruction
needs no check of its own; the words do. -/

namespace Sys2Proof

/-- R62: bits 31:9 of a command word are zero. -/
def Word.rsvZero (w : Word) : Bool := w.extractLsb' 9 23 == 0#23

/-- The opcodes of R65 that accept `sel = 1`. -/
def selOpcodes : List Byte := [0x31, 0x32, 0x33, 0x34, 0x35, 0x36, 0x37, 0x38]

/-- All opcodes of R65. -/
def opcodes : List Byte :=
  [0x10, 0x11]
    ++ [0x20, 0x21, 0x22, 0x23, 0x24, 0x25, 0x26, 0x27, 0x28, 0x29, 0x2A, 0x2B]
    ++ (0x30 :: selOpcodes)
    ++ [0x40, 0x41, 0x42, 0x43, 0x44, 0x45, 0x46, 0x47, 0x48]

/-- R65: the opcode, bits 7:0, is in the opcode map. -/
def Word.opcodeListed (w : Word) : Bool := opcodes.contains (w.extractLsb' 0 8)

/-- R61: `sel`, bit 8, is 0 or the opcode is marked "sel". -/
def Word.selAllowed (w : Word) : Bool := !w.getLsbD 8 || selOpcodes.contains (w.extractLsb' 0 8)

/-- R66: a command word is legal when none of the three conditions of R66 holds. -/
def Word.legal (w : Word) : Bool := Word.rsvZero w && Word.opcodeListed w && Word.selAllowed w

/-- The labels a script declares, in order. -/
def Script.labels : Script → List Nat
  | [] => []
  | .label n :: rest => n :: Script.labels rest
  | _ :: rest => Script.labels rest

/-- Every branch of the script goes to a label the script declares (R69). -/
def Script.targetsDeclared (sc : Script) : Bool :=
  sc.all fun
    | .bneStatus _ n => (Script.labels sc).contains n
    | _ => true

/-- No label is declared twice, so a branch has one target (R69). -/
def Script.labelsDistinct (sc : Script) : Bool := decide (Script.labels sc).Nodup

end Sys2Proof
end

