-- ==== Sys2Proof/Decode.lean ====
section
/-! DEFINITION. Decode.lean: decoding a command word (R60, R65, R66, R78) and, after it, the encoder. -/

namespace Sys2Proof

/-- What a row of the opcode map R65 names: a command, or a command for each value of `sel`. -/
inductive Row where
  | plain (i : Instr)
  | selectable (mk : PiSel → Instr)

/-- R65, the Ethernet unit (opcodes 0x1_). -/
def ethRows : List (Byte × Row) := [(0x10, .plain .ethParse), (0x11, .plain .ethSerialize)]

/-- R65, the IPv4 unit and the checksum engine (opcodes 0x2_). -/
def ipRows : List (Byte × Row) :=
  [(0x20, .plain .ipNew), (0x21, .plain .ipParse), (0x22, .plain .ipSerialize), (0x23, .plain .ipCksum),
   (0x24, .plain .ipSetTos), (0x25, .plain .ipSetId), (0x26, .plain .ipSetTtl), (0x27, .plain .ipSetProto),
   (0x28, .plain .ipSetSrc), (0x29, .plain .ipSetDst), (0x2A, .plain .ipSetOptions), (0x2B, .plain .ipSetPayload)]

/-- R65, the Prefix Information unit (opcodes 0x3_). -/
def piRows : List (Byte × Row) :=
  [(0x30, .plain .piCreate), (0x31, .selectable .piSerialize), (0x32, .selectable .piSetOnlink),
   (0x33, .selectable .piSetAuto), (0x34, .selectable .piSetRouter), (0x35, .selectable .piSetValidLt),
   (0x36, .selectable .piSetPrefLt), (0x37, .selectable .piSetPlen), (0x38, .selectable .piSetPrefix)]

/-- R65, the Router Advertisement unit (opcodes 0x4_). -/
def raRows : List (Byte × Row) :=
  [(0x40, .plain .raCreate), (0x41, .plain .raSerialize), (0x42, .plain .raSetChl), (0x43, .plain .raSetManaged),
   (0x44, .plain .raSetOther), (0x45, .plain .raSetHomeagent), (0x46, .plain .raSetDeflt), (0x47, .plain .raSetReach),
   (0x48, .plain .raSetRetrans)]

/-- The whole opcode map R65. -/
def opcodeMap : List (Byte × Row) := ethRows ++ ipRows ++ piRows ++ raRows

/-- The Prefix Information set that bit 8 selects (R61). -/
def selOfBit (b : Bool) : PiSel := if b then .routerAdv else .standalone

/-- Decoding a command word, with the illegal checks in the order of R78: `rsv`, then the opcode, then `sel`. -/
def decode (w : Word) : Except Illegal Instr :=
  if w.extractLsb' 9 23 ≠ 0#23 then .error .reservedBits
  else
    match opcodeMap.lookup (w.extractLsb' 0 8) with
    | none => .error .unknownOpcode
    | some (.plain i) => if w.getLsbD 8 then .error .selNotAllowed else .ok i
    | some (.selectable mk) => .ok (mk (selOfBit (w.getLsbD 8)))

/-- `decode` over the opcode table's numbering: bit 0 is the least significant bit of the one 32-bit word (R60). A command
is exactly 32 bits (R68), so a value that needs more than 32 bits is no command. -/
def decodeTableWord (nbits w : Nat) : Option Instr :=
  let v := w % 2 ^ nbits
  if v < 2 ^ 32 then
    match decode (BitVec.ofNat 32 v) with
    | .ok i => some i
    | .error _ => none
  else none

/-- The opcode of each command (R65). -/
def Instr.opcode : Instr → Byte
  | .ethParse => 0x10
  | .ethSerialize => 0x11
  | .ipNew => 0x20
  | .ipParse => 0x21
  | .ipSerialize => 0x22
  | .ipCksum => 0x23
  | .ipSetTos => 0x24
  | .ipSetId => 0x25
  | .ipSetTtl => 0x26
  | .ipSetProto => 0x27
  | .ipSetSrc => 0x28
  | .ipSetDst => 0x29
  | .ipSetOptions => 0x2A
  | .ipSetPayload => 0x2B
  | .piCreate => 0x30
  | .piSerialize _ => 0x31
  | .piSetOnlink _ => 0x32
  | .piSetAuto _ => 0x33
  | .piSetRouter _ => 0x34
  | .piSetValidLt _ => 0x35
  | .piSetPrefLt _ => 0x36
  | .piSetPlen _ => 0x37
  | .piSetPrefix _ => 0x38
  | .raCreate => 0x40
  | .raSerialize => 0x41
  | .raSetChl => 0x42
  | .raSetManaged => 0x43
  | .raSetOther => 0x44
  | .raSetHomeagent => 0x45
  | .raSetDeflt => 0x46
  | .raSetReach => 0x47
  | .raSetRetrans => 0x48

/-- The `sel` bit of a Prefix Information set (R61). -/
def PiSel.bit : PiSel → BitVec 1
  | .standalone => 0
  | .routerAdv => 1

/-- The `sel` bit of each command's word: its own on the eight commands R65 marks, 0 on every other (R61). -/
def Instr.selBit : Instr → BitVec 1
  | .piSerialize x | .piSetOnlink x | .piSetAuto x | .piSetRouter x => x.bit
  | .piSetValidLt x | .piSetPrefLt x | .piSetPlen x | .piSetPrefix x => x.bit
  | .ethParse | .ethSerialize => 0
  | .ipNew | .ipParse | .ipSerialize | .ipCksum | .ipSetTos | .ipSetId => 0
  | .ipSetTtl | .ipSetProto | .ipSetSrc | .ipSetDst | .ipSetOptions | .ipSetPayload => 0
  | .piCreate => 0
  | .raCreate | .raSerialize | .raSetChl | .raSetManaged | .raSetOther => 0
  | .raSetHomeagent | .raSetDeflt | .raSetReach | .raSetRetrans => 0

/-- The command word of a command: `rsv = 0`, then `sel`, then the opcode (R60, R65). -/
def encode (i : Instr) : Word := 0#23 ++ (i.selBit ++ i.opcode)

end Sys2Proof
end

