-- ==== Sys2Proof/Config.lean ====
section
/-! DEFINITION. Config.lean: the parameters the spec leaves to an implementation (R6 to R8) and the free values. -/

namespace Sys2Proof

/-- How far `BUF_MAX` lies above its least value 60. It has no body: the spec leaves `BUF_MAX` OPEN in
`60 <= BUF_MAX <= 16777156` (R6, D3), so every statement of the model holds for every capacity (log entry 1). -/
opaque Config.bufMaxRoom : Fin 16777097

/-- `BUF_MAX`, the capacity of IBUF in bytes (R6). -/
def Config.bufMax : Nat := Config.bufMaxRoom.val + 60

/-- `OBUF_MAX = BUF_MAX + 60`, the capacity of OBUF in bytes (R7). -/
def Config.obufMax : Nat := Config.bufMax + 60

/-- `RA_ICMP_TYPE = 134 = 0x86` (R8): PRESUMED, the value R8 itself takes from general knowledge (log entry 2). -/
def Config.raIcmpType : Byte := 0x86

/-- The two byte buffers (R19, R21). -/
inductive Buffer where
  | ibuf
  | obuf
  deriving DecidableEq, Repr

/-- The free byte that an unwritten buffer cell shows: the arguments are the number of the draw (`State.draw`), the buffer
and the cell's index, so the bytes of two cells, of the same index in the two buffers too, have nothing to do with each
other. It has no body: "A model must not pick a value for them" (R151; log entry 3). -/
opaque Config.freeByte : Nat → Buffer → Nat → Byte

/-- The free data of a read of a width its region does not list, where there is data: an 8-bit read of a register or a
32-bit read of a byte. The arguments are the draw and the address. It has no body: R41 to R43 give each region one width
and state no data for the other (log entry 7). -/
opaque Config.freeRead : Nat → Word → Word

/-- The free outcome of an 8-bit write to a host-writable register: none, or a word that the register is written with. The
arguments are the draw, the address and the data. It has no body: the spec does not state what register value such a write
gives. DESIGN CHOICE: the outcome is a new one at each draw, so R52's sentence on repeated writes, which names no width, is
not enforced for such a write (log entry 7). -/
opaque Config.freeRegWrite : Nat → Word → Word → Option Word

/-- The free outcome of a 32-bit write to an IBUF cell: the cells it stores and their bytes. The arguments are the draw,
the address and the data. It has no body: the spec does not state which cells such a write reaches. DESIGN CHOICE: the
outcome is a new one at each draw, so R52's sentence on repeated writes is not enforced for such a write (log entry 7). -/
opaque Config.freeStore : Nat → Word → Word → List (Nat × Byte)

end Sys2Proof
end

