-- ==== Sys2Proof/Machine/State.lean ====
section
/-! DEFINITION. Machine/State.lean: the architectural state of PKTCODEC (R13 and the rules it names), the host's side, the
reasons a step can stop, and reset (R38, R147). -/

namespace Sys2Proof.Machine

/-- The status codes of R133. Codes 12 to 15 are never written (U14), so they have no constructor. -/
inductive Status where
  | ok
  | tooShort
  | malformedHeader
  | unsupportedVersion
  | invalidHeaderLength
  | invalidTotalLength
  | checksumMismatch
  | valueTooLarge
  | invalidOptionsLength
  | addressFamilyMismatch
  | notConstructed
  | illegalCommand
  deriving DecidableEq, Repr

/-- The cells of a byte buffer: index and byte, indices strictly rising. An index that is not listed is an *unwritten*
cell (R19, R21). -/
abbrev Memory := List Host.Cell

/-- The canonical form of a buffer: indices strictly rise. (An unwritten cell holds no byte, so no listed byte can equal
what an unlisted cell reads as.) -/
abbrev Memory.wf (m : Memory) : Prop := m.Pairwise fun x y => x.1 < y.1

/-- The ETH set: one parsed Ethernet frame (R26). -/
structure EthSet where
  /-- ETH.DST, frame bytes 0-5. -/
  dst : Vector Byte 6
  /-- ETH.SRC, frame bytes 6-11. -/
  src : Vector Byte 6
  /-- ETH.TYPE, the raw EtherType. -/
  type : Half
  /-- ETH.PAY. -/
  pay : Bytes
  deriving DecidableEq, Repr

/-- The IP set: one IPv4 packet (R28). -/
structure IpSet where
  tos : Byte
  id : Half
  flags : BitVec 3
  frag : BitVec 13
  ttl : Byte
  proto : Byte
  src : Vector Byte 4
  dst : Vector Byte 4
  /-- IP.OPT, a multiple of 4 and at most 40 bytes (R29, an invariant). -/
  opt : Bytes
  /-- IP.PAY. -/
  pay : Bytes
  deriving DecidableEq, Repr

/-- A PI set: one ND Prefix Information option (R31). -/
structure PiSet where
  /-- PI.PREFIX. -/
  pfx : Vector Byte 16
  plen : Byte
  /-- PI.FLAGS: bit 7 L, bit 6 A, bit 5 R, bits 4:0 hardwired 0 (R31). -/
  flags : Byte
  vlt : Word
  plt : Word
  deriving DecidableEq, Repr

/-- The RA set: one ICMPv6 Router Advertisement (R32), with the PI set it owns (R33). -/
structure RaSet where
  chl : Byte
  /-- RA.FLAGS: bit 7 M, bit 6 O, bit 5 H, bits 4:0 hardwired 0 (R32). -/
  flags : Byte
  /-- RA.DEFLT, a 16-bit two's-complement bit pattern. -/
  deflt : Half
  reach : Word
  retrans : Word
  /-- RA.PI, part of the RA set and never shared with PI (R33). -/
  pi : PiSet
  deriving DecidableEq, Repr

/-- The host's side (the model's own field, log entry 5): the script it runs, the index of its next line ("that index is
the host's, not the block's", R15), and the read data it has received, newest first. -/
structure HostSide where
  script : Script
  line : Nat
  reads : List Word
  deriving DecidableEq, Repr

/-- The state: the elements of R13, then the model's own two fields. -/
structure State where
  /-- STATUS (R16). -/
  status : Status
  /-- CMD, the last command word written (R17). -/
  cmd : Word
  /-- OPERAND (R18). -/
  operand : Word
  /-- IBUF cells (R19). -/
  ibuf : Memory
  /-- IBUF_LEN (R20). -/
  ibufLen : Word
  /-- OBUF cells (R21). -/
  obuf : Memory
  /-- OBUF_LEN (R22). -/
  obufLen : Word
  /-- CKSUM (R23). -/
  cksum : Half
  /-- ETH.V (R24). -/
  ethV : Bool
  /-- IP.V (R24). -/
  ipV : Bool
  /-- PI.V (R24). -/
  piV : Bool
  /-- RA.V (R24). -/
  raV : Bool
  /-- The ETH set (R26). -/
  eth : EthSet
  /-- The IP set (R28). -/
  ip : IpSet
  /-- The standalone PI set (R31). -/
  pi : PiSet
  /-- The RA set (R32). -/
  ra : RaSet
  /-- The host's side (model's own, log entry 5). -/
  host : HostSide
  /-- The number of the draw of free values: unwritten cells, off-width accesses (model's own, log entries 4, 7). -/
  draw : Nat
  deriving DecidableEq, Repr

/-- Why a step can end in a fault. No command and no host access faults (R42, R46, R79, R135): the one reason is about
the host's script. -/
inductive Fault where
  /-- Raised by `hostStep` for a BNE_STATUS whose label the script does not declare; the spec gives such a line no
  meaning (R69). Safe: the model stops (log entry 8). -/
  | unknownLabel (name : Nat)
  deriving DecidableEq, Repr

/-- Why a step can be refused. -/
inductive Refusal where
  /-- Raised by an arm of `exec` whose command has no meaning yet; no arm does, since every command is modelled. Safe. -/
  | notModelled (mnemonic : String)
  deriving DecidableEq, Repr

/-- What a step or a command answers. -/
abbrev Result := Host.Outcome State Fault Refusal

/-- The ETH set at reset (R38). -/
def EthSet.zero : EthSet :=
  { dst := Vector.replicate 6 0, src := Vector.replicate 6 0, type := 0, pay := [] }

/-- The IP set at reset (R38); IP_NEW loads the same values (R89). -/
def IpSet.zero : IpSet :=
  { tos := 0, id := 0, flags := 0, frag := 0, ttl := 0, proto := 0,
    src := Vector.replicate 4 0, dst := Vector.replicate 4 0, opt := [], pay := [] }

/-- A PI set at reset (R38). -/
def PiSet.zero : PiSet := { pfx := Vector.replicate 16 0, plen := 0, flags := 0, vlt := 0, plt := 0 }

/-- The RA set at reset (R38). -/
def RaSet.zero : RaSet := { chl := 0, flags := 0, deflt := 0, reach := 0, retrans := 0, pi := PiSet.zero }

/-- The state right after reset (R38, R147): STATUS is OK, every length and field 0, every valid bit 0, every buffer cell
unwritten. The host's side is empty and the draw counter 0 (DESIGN CHOICE, log entries 4 and 5). -/
def State.reset : State :=
  { status := .ok, cmd := 0, operand := 0, ibuf := [], ibufLen := 0, obuf := [], obufLen := 0, cksum := 0,
    ethV := false, ipV := false, piV := false, raV := false,
    eth := EthSet.zero, ip := IpSet.zero, pi := PiSet.zero, ra := RaSet.zero,
    host := { script := [], line := 0, reads := [] }, draw := 0 }

end Sys2Proof.Machine
end

