-- ==== Sys2Proof/Machine/Wire.lean ====
section
/-! DEFINITION. Machine/Wire.lean: byte order and byte-sequence helpers of the wire (R10, R11, R47). -/

namespace Sys2Proof.Machine

/-- R11: `be16(b0, b1)`, the byte with the lower index in the more significant bits. -/
def be16 (b0 b1 : Byte) : Half := b0 ++ b1

/-- R11: `be32(b0, b1, b2, b3)`. -/
def be32 (b0 b1 b2 b3 : Byte) : Word := (b0 ++ b1) ++ (b2 ++ b3)

/-- R11: `bytes16(v) = [v[15:8], v[7:0]]`. -/
def bytes16 (v : Half) : Bytes := [v.extractLsb' 8 8, v.extractLsb' 0 8]

/-- R11: `bytes32(v)`, most significant byte first. -/
def bytes32 (v : Word) : Bytes :=
  [v.extractLsb' 24 8, v.extractLsb' 16 8, v.extractLsb' 8 8, v.extractLsb' 0 8]

/-- R10: `zeros(n)`. -/
def zeros (n : Nat) : Bytes := List.replicate n 0

/-- R10: `B[i]`. Every use is at an index the command has checked to be below `len(B)`. -/
def byteAt (bs : Bytes) (i : Nat) : Byte := bs.getD i 0

/-- R10: `B[i..j)`, empty when `j <= i`. -/
def slice (bs : Bytes) (i j : Nat) : Bytes := (bs.drop i).take (j - i)

/-- The first `n` bytes of a sequence as a field of exactly `n` bytes. Every use is on a sequence of at least `n` bytes. -/
def fixedBytes (n : Nat) (bs : Bytes) : Vector Byte n :=
  ⟨⟨(bs ++ zeros n).take n⟩, by simp [zeros]⟩

/-- `be16(B[i], B[i+1])`. -/
def be16At (bs : Bytes) (i : Nat) : Half := be16 (byteAt bs i) (byteAt bs (i + 1))

/-- `be32(B[i..i+4))`. -/
def be32At (bs : Bytes) (i : Nat) : Word :=
  be32 (byteAt bs i) (byteAt bs (i + 1)) (byteAt bs (i + 2)) (byteAt bs (i + 3))

end Sys2Proof.Machine
end

