-- ==== Sys2Proof/Machine/Ops.lean ====
section
/-! DEFINITION. Machine/Ops.lean: the named operations over the buffers and the sets, how a command ends (R12, R80, R81,
R135), and the shared checks of R82. -/

namespace Sys2Proof.Machine

/-! ## How a command ends -/

/-- STATUS takes a code; nothing else changes. -/
def State.setStatus (s : State) (c : Status) : State := { s with status := c }

/-- R12, R81, R135: `raise <Code>`. An error is not a trap: STATUS takes the code, every other write of the command is
discarded, nothing is saved and no handler runs. This is the block's whole error entry, so there is nothing to return from
(R139). -/
def raise (c : Status) (s : State) : Result := .next (s.setStatus c)

/-- R12, R80: `ok`. The command's writes are committed and STATUS becomes OK. -/
def ok (s : State) : Result := .next (s.setStatus .ok)

/-- R82: the valid-bit check every serialize and setter command makes first. -/
def requireValid (v : Bool) (s : State) (k : Result) : Result := if v then k else raise .notConstructed s

/-! ## The buffers -/

/-- The byte a cell holds, or none if the cell is unwritten (R19, R21). -/
def Memory.read (m : Memory) (i : Nat) : Option Byte :=
  match m with
  | [] => none
  | (k, b) :: rest => if k = i then some b else Memory.read rest i

/-- Writing one cell: it stops being unwritten (R44). The canonical form is kept. -/
def Memory.write (m : Memory) (i : Nat) (b : Byte) : Memory :=
  match m with
  | [] => [(i, b)]
  | (k, c) :: rest =>
    if i < k then (i, b) :: (k, c) :: rest
    else if i = k then (i, b) :: rest
    else (k, c) :: Memory.write rest i b

/-- Writing a byte sequence from a cell on (R49). -/
def Memory.writeBytes (m : Memory) (i : Nat) (bs : Bytes) : Memory :=
  match bs with
  | [] => m
  | b :: rest => Memory.writeBytes (Memory.write m i b) (i + 1) rest

/-- Writing a list of cells in order; a cell at or past the capacity `cap` does not exist and is not written (R44). -/
def Memory.writeCells (cap : Nat) (m : Memory) (cells : List Host.Cell) : Memory :=
  match cells with
  | [] => m
  | (i, b) :: rest => Memory.writeCells cap (if i < cap then Memory.write m i b else m) rest

/-- What a read of an IBUF cell shows: its byte, or the current draw's free byte if it is unwritten (R45, R151; log
entry 3). -/
def ibufByte (s : State) (i : Nat) : Byte := (Memory.read s.ibuf i).getD (Config.freeByte s.draw .ibuf i)

/-- What a read of an OBUF cell shows (R21, R45; log entry 3). -/
def obufByte (s : State) (i : Nat) : Byte := (Memory.read s.obuf i).getD (Config.freeByte s.draw .obuf i)

/-- R12: `MemRead(IBUF, i, n)`. -/
def memReadIbuf (s : State) (i n : Nat) : Bytes := (List.range' i n).map (ibufByte s)

/-- R12, R49, R59: `MemWrite(OBUF, 0, len(O), O)` and `OBUF_LEN <- len(O)`, which every serialize command does together;
cells from `len(O)` on keep what they held. -/
def State.emit (s : State) (o : Bytes) : State :=
  { s with obuf := Memory.writeBytes s.obuf 0 o, obufLen := BitVec.ofNat 32 o.length }

/-! ## The two Prefix Information sets (R33, R61) -/

/-- R61: `PIsel`. -/
def State.piSel (s : State) : PiSel → PiSet
  | .standalone => s.pi
  | .routerAdv => s.ra.pi

/-- R61: `Vsel`. -/
def State.vSel (s : State) : PiSel → Bool
  | .standalone => s.piV
  | .routerAdv => s.raV

/-- R33, R61: writing `PIsel`; the other set is not touched. -/
def State.setPiSel (s : State) (x : PiSel) (p : PiSet) : State :=
  match x with
  | .standalone => { s with pi := p }
  | .routerAdv => { s with ra := { s.ra with pi := p } }

end Sys2Proof.Machine
end

