-- ==== Sys2Proof/Machine/Operands.lean ====
section
/-! DEFINITION. Machine/Operands.lean: every operand form of R64 with its check (R83, R84). A form hands the checked value
to the rest of the command or raises its code. The numeric operand is OPERAND at the moment CMD is written (R63). -/

namespace Sys2Proof.Machine

/-- R64: `L`, the number of valid bytes in IBUF. -/
def inputLen (s : State) : Nat := s.ibufLen.toNat

/-- R64, form `buf`: `B = MemRead(IBUF, 0, L)`, the whole input. -/
def input (s : State) : Bytes := memReadIbuf s 0 (inputLen s)

/-- R83: a numeric operand above the field's largest value raises ValueTooLarge. -/
def withinLimit (limit : Nat) (s : State) (k : Result) : Result :=
  if s.operand.toNat ≤ limit then k else raise .valueTooLarge s

/-- R64, form `u1`: `OPERAND[0]`. -/
def withU1 (s : State) (k : Bool → Result) : Result := withinLimit 1 s (k (s.operand.getLsbD 0))

/-- R64, form `u8`: `OPERAND[7:0]`. -/
def withU8 (s : State) (k : Byte → Result) : Result := withinLimit 0xFF s (k (s.operand.extractLsb' 0 8))

/-- R64, form `u16`: `OPERAND[15:0]`. -/
def withU16 (s : State) (k : Half → Result) : Result := withinLimit 0xFFFF s (k (s.operand.extractLsb' 0 16))

/-- R64, form `u32`: every value is legal. -/
def withU32 (s : State) (k : Word → Result) : Result := k s.operand

/-- R84: the address is the whole input, its family given by its length. -/
def withAddress (n : Nat) (s : State) (k : Vector Byte n → Result) : Result :=
  if inputLen s = n then k (fixedBytes n (input s)) else raise .addressFamilyMismatch s

/-- R64, form `addr4`: an IPv4 address. -/
def withAddr4 (s : State) (k : Vector Byte 4 → Result) : Result := withAddress 4 s k

/-- R64, form `addr16`: an IPv6 address. -/
def withAddr16 (s : State) (k : Vector Byte 16 → Result) : Result := withAddress 16 s k

/-- R64, form `addr16+u8`: the `addr16` check, then the `u8` check. -/
def withAddr16U8 (s : State) (k : Vector Byte 16 → Byte → Result) : Result :=
  withAddr16 s fun a => withU8 s fun v => k a v

end Sys2Proof.Machine
end

