-- ==== Sys2Proof/Machine/Ethernet.lean ====
section
/-! DEFINITION. Machine/Ethernet.lean: the Ethernet unit (41_ethernet, R86 to R88). -/

namespace Sys2Proof.Machine

/-- R86: `classify(t)`, the class of an EtherType (R76). A value below 0x0600 is Other like any unnamed value. -/
def classify (t : Half) : BitVec 3 :=
  if t = 0x0800 then 1
  else if t = 0x0806 then 2
  else if t = 0x8035 then 3
  else if t = 0x809B then 4
  else if t = 0x80F3 then 5
  else if t = 0x86DD then 6
  else if t = 0x8819 then 7
  else 0

/-- The ETH set that ETH_PARSE reads from a frame of at least 14 bytes (R71, R87). -/
def ethOfBytes (b : Bytes) : EthSet :=
  { dst := fixedBytes 6 (slice b 0 6),
    src := fixedBytes 6 (slice b 6 12),
    type := be16At b 12,
    pay := slice b 14 b.length }

/-- The frame that ETH_SERIALIZE writes (R71, R88). -/
def ethBytes (e : EthSet) : Bytes := e.dst.toList ++ e.src.toList ++ bytes16 e.type ++ e.pay

/-- R87: ETH_PARSE. -/
def execEthParse (s : State) : Result :=
  if inputLen s < 14 then raise .malformedHeader s
  else ok { s with eth := ethOfBytes (input s), ethV := true }

/-- R88: ETH_SERIALIZE. -/
def execEthSerialize (s : State) : Result :=
  requireValid s.ethV s (ok (s.emit (ethBytes s.eth)))

end Sys2Proof.Machine
end

