-- ==== Sys2Proof/Machine/Checksum.lean ====
section
/-! DEFINITION. Machine/Checksum.lean: the ones'-complement header checksum engine (43_checksum, R104 to R112). -/

namespace Sys2Proof.Machine

/-- The 16-bit big-endian word `k` of a header (R72, R104). -/
def headerWord (h : Bytes) (k : Nat) : Half := be16 (byteAt h (2 * k)) (byteAt h (2 * k + 1))

/-- R104: the 32-bit sum of the words `0 .. n-1` other than word 5. -/
def ckSum (h : Bytes) : Nat → Word
  | 0 => 0
  | k + 1 => if k = 5 then ckSum h k else ckSum h k + (headerWord h k).setWidth 32

/-- R104, R106: the fold, done exactly once. -/
def foldOnce (sum : Word) : Word := (sum.extractLsb' 0 16).setWidth 32 + (sum.extractLsb' 16 16).setWidth 32

/-- R104: `CK(H, n)`. -/
def ck (h : Bytes) (n : Nat) : Half := (~~~ foldOnce (ckSum h n)).extractLsb' 0 16

/-- The header length IHL in 4-byte words, bits 3:0 of byte 0 (R73). -/
def ihlOf (b : Bytes) : Nat := ((byteAt b 0).extractLsb' 0 4).toNat

/-- R111: IP_CKSUM. -/
def execIpCksum (s : State) : Result :=
  if inputLen s < 20 then raise .tooShort s
  else if ihlOf (input s) < 5 then raise .invalidHeaderLength s
  else if inputLen s < ihlOf (input s) * 4 then raise .tooShort s
  else ok { s with cksum := ck (input s) (2 * ihlOf (input s)) }

end Sys2Proof.Machine
end

