-- ==== Sys2Proof/Machine/Ipv4.lean ====
section
/-! DEFINITION. Machine/Ipv4.lean: the IPv4 header codec (42_ipv4, R89 to R103). -/

namespace Sys2Proof.Machine

/-! ## Parsing -/

/-- The version nibble, bits 7:4 of byte 0 (R73). -/
def versionOf (b : Bytes) : Nat := ((byteAt b 0).extractLsb' 4 4).toNat

/-- The total length, bytes 2-3 (R72). -/
def totalLenOf (b : Bytes) : Nat := (be16At b 2).toNat

/-- The checks of IP_PARSE in their order; the first that fails is the one reported (R90, R91). -/
def ipParseError (b : Bytes) (len : Nat) : Option Status :=
  if len < 20 then some .tooShort
  else if versionOf b ≠ 4 then some .unsupportedVersion
  else if ihlOf b < 5 then some .invalidHeaderLength
  else if totalLenOf b < ihlOf b * 4 ∨ totalLenOf b > len then some .invalidTotalLength
  else if ck b (2 * ihlOf b) ≠ be16At b 10 then some .checksumMismatch
  else none

/-- The IP set that IP_PARSE reads from a packet that passes its checks (R72, R73, R90). -/
def ipOfBytes (b : Bytes) : IpSet :=
  { tos := byteAt b 1,
    id := be16At b 4,
    flags := (byteAt b 6).extractLsb' 5 3,
    frag := ((byteAt b 6).extractLsb' 0 5) ++ byteAt b 7,
    ttl := byteAt b 8,
    proto := byteAt b 9,
    src := fixedBytes 4 (slice b 12 16),
    dst := fixedBytes 4 (slice b 16 20),
    opt := slice b 20 (ihlOf b * 4),
    pay := slice b (ihlOf b * 4) (totalLenOf b) }

/-! ## Serializing -/

/-- The header length serialize derives: `5 + len(IP.OPT) / 4` (R30, R92). -/
def IpSet.ihl (p : IpSet) : Nat := 5 + p.opt.length / 4

/-- The total length serialize derives: `20 + len(IP.OPT) + len(IP.PAY)` (R30, R92, R93). -/
def IpSet.totalLen (p : IpSet) : Nat := 20 + p.opt.length + p.pay.length

/-- R92: `ipImage(c)`, the header with `c` in the checksum field. -/
def ipImage (p : IpSet) (c : Half) : Bytes :=
  [0x40 ||| BitVec.ofNat 8 p.ihl, p.tos]
    ++ bytes16 (BitVec.ofNat 16 p.totalLen)
    ++ bytes16 p.id
    ++ [p.flags ++ p.frag.extractLsb' 8 5, p.frag.extractLsb' 0 8]
    ++ [p.ttl, p.proto]
    ++ bytes16 c
    ++ p.src.toList ++ p.dst.toList
    ++ p.opt

/-- The checksum IP_SERIALIZE computes over the header with a zero checksum field (R93, R110). -/
def ipChecksum (p : IpSet) : Half := ck (ipImage p 0) (2 * p.ihl)

/-- The packet IP_SERIALIZE writes (R93). -/
def ipBytes (p : IpSet) : Bytes := ipImage p (ipChecksum p) ++ p.pay

/-! ## The commands -/

/-- R89: IP_NEW. -/
def execIpNew (s : State) : Result := ok { s with ip := IpSet.zero, ipV := true }

/-- R90, R91: IP_PARSE. CKSUM is not written (R23). -/
def execIpParse (s : State) : Result :=
  match ipParseError (input s) (inputLen s) with
  | some c => raise c s
  | none => ok { s with ip := ipOfBytes (input s), ipV := true }

/-- R93: IP_SERIALIZE. -/
def execIpSerialize (s : State) : Result :=
  requireValid s.ipV s
    (if s.ip.totalLen > 0xFFFF then raise .valueTooLarge s else ok (s.emit (ipBytes s.ip)))

/-- Writing the IP set. -/
def State.setIp (s : State) (p : IpSet) : State := { s with ip := p }

/-- R95: IP_SET_TOS. -/
def execIpSetTos (s : State) : Result :=
  requireValid s.ipV s (withU8 s fun v => ok (s.setIp { s.ip with tos := v }))

/-- R96: IP_SET_ID. -/
def execIpSetId (s : State) : Result :=
  requireValid s.ipV s (withU16 s fun v => ok (s.setIp { s.ip with id := v }))

/-- R97: IP_SET_TTL. -/
def execIpSetTtl (s : State) : Result :=
  requireValid s.ipV s (withU8 s fun v => ok (s.setIp { s.ip with ttl := v }))

/-- R98: IP_SET_PROTO. -/
def execIpSetProto (s : State) : Result :=
  requireValid s.ipV s (withU8 s fun v => ok (s.setIp { s.ip with proto := v }))

/-- R99: IP_SET_SRC, which assigns on success (C5). -/
def execIpSetSrc (s : State) : Result :=
  requireValid s.ipV s (withAddr4 s fun a => ok (s.setIp { s.ip with src := a }))

/-- R100: IP_SET_DST, which assigns on success (C5). -/
def execIpSetDst (s : State) : Result :=
  requireValid s.ipV s (withAddr4 s fun a => ok (s.setIp { s.ip with dst := a }))

/-- R101: IP_SET_OPTIONS, which checks the new length (C1). -/
def execIpSetOptions (s : State) : Result :=
  requireValid s.ipV s
    (if inputLen s % 4 ≠ 0 ∨ inputLen s > 40 then raise .invalidOptionsLength s
     else ok (s.setIp { s.ip with opt := input s }))

/-- R102: IP_SET_PAYLOAD. -/
def execIpSetPayload (s : State) : Result :=
  requireValid s.ipV s (ok (s.setIp { s.ip with pay := input s }))

end Sys2Proof.Machine
end

