-- ==== Sys2Proof/Machine/Flags.lean ====
section
/-! DEFINITION. Machine/Flags.lean: the block's only condition code (R16, R133), the flag bytes of PI and RA (R31, R32) and
the VALID bits (R34). -/

namespace Sys2Proof.Machine

/-- R133: the 4-bit code of each status. -/
def Status.code : Status → BitVec 4
  | .ok => 0
  | .tooShort => 1
  | .malformedHeader => 2
  | .unsupportedVersion => 3
  | .invalidHeaderLength => 4
  | .invalidTotalLength => 5
  | .checksumMismatch => 6
  | .valueTooLarge => 7
  | .invalidOptionsLength => 8
  | .addressFamilyMismatch => 9
  | .notConstructed => 10
  | .illegalCommand => 11

/-- PI.FLAGS bit 7, `onLink` (R31). -/
def bitL : Nat := 7
/-- PI.FLAGS bit 6, `autonomous` (R31). -/
def bitA : Nat := 6
/-- PI.FLAGS bit 5, `routerAddr` (R31). -/
def bitR : Nat := 5
/-- RA.FLAGS bit 7, `managedFlag` (R32). -/
def bitM : Nat := 7
/-- RA.FLAGS bit 6, `otherConfigFlag` (R32). -/
def bitO : Nat := 6
/-- RA.FLAGS bit 5, `homeAgentFlag` (R32). -/
def bitH : Nat := 5

/-- The one write of a flag byte: bit `n` takes the value, the other bits are unchanged (R116 to R118, R127 to R129). -/
def setFlag (flags : Byte) (n : Nat) (v : Bool) : Byte :=
  (flags &&& ~~~(1#8 <<< n)) ||| ((if v then 1#8 else 0#8) <<< n)

/-- The one read of a flag byte, by the register file and by the wire form: bits 4:0 are hardwired 0 (R31, R32, R36; log
entry 14). -/
def flagByte (flags : Byte) : Byte := flags &&& 0xE0

/-- The VALID register: bit 0 ETH.V, bit 1 IP.V, bit 2 PI.V, bit 3 RA.V (R34). -/
def validBits (s : State) : BitVec 4 :=
  (BitVec.ofBool s.raV ++ BitVec.ofBool s.piV) ++ (BitVec.ofBool s.ipV ++ BitVec.ofBool s.ethV)

end Sys2Proof.Machine
end

