-- ==== Sys2Proof/Machine/PrefixInfo.lean ====
section
/-! DEFINITION. Machine/PrefixInfo.lean: the ND Prefix Information option encoder (44_nd_prefix_info, R113 to R122). The
same rules act on PI (`sel = 0`) and on RA.PI (`sel = 1`). -/

namespace Sys2Proof.Machine

/-- R113: `piBytes(P)`, the 32-byte wire form (R74). -/
def piBytes (p : PiSet) : Bytes :=
  [0x03, 0x04, p.plen, flagByte p.flags] ++ bytes32 p.vlt ++ bytes32 p.plt ++ zeros 4 ++ p.pfx.toList

/-- The PI set a construction builds from a prefix address and length, with the defaults of R31 (R114, R124). -/
def piCreated (a : Vector Byte 16) (plen : Byte) : PiSet :=
  { pfx := a, plen := plen, flags := 0xC0, vlt := 2592000, plt := 604800 }

/-- R114: PI_CREATE. -/
def execPiCreate (s : State) : Result :=
  withAddr16U8 s fun a v => ok { s with pi := piCreated a v, piV := true }

/-- R115: PI_SERIALIZE. -/
def execPiSerialize (x : PiSel) (s : State) : Result :=
  requireValid (s.vSel x) s (ok (s.emit (piBytes (s.piSel x))))

/-- R116: PI_SET_ONLINK. -/
def execPiSetOnlink (x : PiSel) (s : State) : Result :=
  requireValid (s.vSel x) s (withU1 s fun v =>
    ok (s.setPiSel x { s.piSel x with flags := setFlag (s.piSel x).flags bitL v }))

/-- R117: PI_SET_AUTO. -/
def execPiSetAuto (x : PiSel) (s : State) : Result :=
  requireValid (s.vSel x) s (withU1 s fun v =>
    ok (s.setPiSel x { s.piSel x with flags := setFlag (s.piSel x).flags bitA v }))

/-- R118: PI_SET_ROUTER. -/
def execPiSetRouter (x : PiSel) (s : State) : Result :=
  requireValid (s.vSel x) s (withU1 s fun v =>
    ok (s.setPiSel x { s.piSel x with flags := setFlag (s.piSel x).flags bitR v }))

/-- R119: PI_SET_VALID_LT. -/
def execPiSetValidLt (x : PiSel) (s : State) : Result :=
  requireValid (s.vSel x) s (withU32 s fun v => ok (s.setPiSel x { s.piSel x with vlt := v }))

/-- R120: PI_SET_PREF_LT. -/
def execPiSetPrefLt (x : PiSel) (s : State) : Result :=
  requireValid (s.vSel x) s (withU32 s fun v => ok (s.setPiSel x { s.piSel x with plt := v }))

/-- R121: PI_SET_PLEN; values above 128 are accepted (D35). -/
def execPiSetPlen (x : PiSel) (s : State) : Result :=
  requireValid (s.vSel x) s (withU8 s fun v => ok (s.setPiSel x { s.piSel x with plen := v }))

/-- R122: PI_SET_PREFIX. -/
def execPiSetPrefix (x : PiSel) (s : State) : Result :=
  requireValid (s.vSel x) s (withAddr16 s fun a => ok (s.setPiSel x { s.piSel x with pfx := a }))

end Sys2Proof.Machine
end

