-- ==== Sys2Proof/Machine/RouterAdv.lean ====
section
/-! DEFINITION. Machine/RouterAdv.lean: the ICMPv6 Router Advertisement encoder (45_nd_router_adv, R123 to R132). -/

namespace Sys2Proof.Machine

/-- R123: `raBytes()`, the 48-byte wire form (R75); the ICMPv6 checksum is left zero. -/
def raBytes (r : RaSet) : Bytes :=
  [Config.raIcmpType, 0x00, 0x00, 0x00, r.chl, flagByte r.flags]
    ++ bytes16 r.deflt ++ bytes32 r.reach ++ bytes32 r.retrans ++ piBytes r.pi

/-- The RA set RA_CREATE builds (R32, R124): its PI set is built as PI_CREATE would, with prefix length 64. -/
def raCreated (a : Vector Byte 16) : RaSet :=
  { chl := 64, flags := 0x00, deflt := 0, reach := 0, retrans := 0, pi := piCreated a 64 }

/-- R124: RA_CREATE; OPERAND is ignored. -/
def execRaCreate (s : State) : Result :=
  withAddr16 s fun a => ok { s with ra := raCreated a, raV := true }

/-- R125: RA_SERIALIZE. -/
def execRaSerialize (s : State) : Result := requireValid s.raV s (ok (s.emit (raBytes s.ra)))

/-- Writing the RA set. -/
def State.setRa (s : State) (r : RaSet) : State := { s with ra := r }

/-- R126: RA_SET_CHL. -/
def execRaSetChl (s : State) : Result :=
  requireValid s.raV s (withU8 s fun v => ok (s.setRa { s.ra with chl := v }))

/-- R127: RA_SET_MANAGED. -/
def execRaSetManaged (s : State) : Result :=
  requireValid s.raV s (withU1 s fun v => ok (s.setRa { s.ra with flags := setFlag s.ra.flags bitM v }))

/-- R128: RA_SET_OTHER. -/
def execRaSetOther (s : State) : Result :=
  requireValid s.raV s (withU1 s fun v => ok (s.setRa { s.ra with flags := setFlag s.ra.flags bitO v }))

/-- R129: RA_SET_HOMEAGENT. -/
def execRaSetHomeagent (s : State) : Result :=
  requireValid s.raV s (withU1 s fun v => ok (s.setRa { s.ra with flags := setFlag s.ra.flags bitH v }))

/-- R130: RA_SET_DEFLT, a 16-bit two's-complement pattern (D36). -/
def execRaSetDeflt (s : State) : Result :=
  requireValid s.raV s (withU16 s fun v => ok (s.setRa { s.ra with deflt := v }))

/-- R131: RA_SET_REACH. -/
def execRaSetReach (s : State) : Result :=
  requireValid s.raV s (withU32 s fun v => ok (s.setRa { s.ra with reach := v }))

/-- R132: RA_SET_RETRANS. -/
def execRaSetRetrans (s : State) : Result :=
  requireValid s.raV s (withU32 s fun v => ok (s.setRa { s.ra with retrans := v }))

end Sys2Proof.Machine
end

