-- ==== Sys2Proof/Machine/Dispatch.lean ====
section
/-! DEFINITION. Machine/Dispatch.lean: one arm per command (R65, R78). -/

namespace Sys2Proof.Machine

def exec (i : Instr) (s : State) : Host.Outcome State Fault Refusal :=
  match i with
  | .ethParse => Sys2Proof.Machine.execEthParse s
  | .ethSerialize => Sys2Proof.Machine.execEthSerialize s
  | .ipNew => Sys2Proof.Machine.execIpNew s
  | .ipParse => Sys2Proof.Machine.execIpParse s
  | .ipSerialize => Sys2Proof.Machine.execIpSerialize s
  | .ipCksum => Sys2Proof.Machine.execIpCksum s
  | .ipSetTos => Sys2Proof.Machine.execIpSetTos s
  | .ipSetId => Sys2Proof.Machine.execIpSetId s
  | .ipSetTtl => Sys2Proof.Machine.execIpSetTtl s
  | .ipSetProto => Sys2Proof.Machine.execIpSetProto s
  | .ipSetSrc => Sys2Proof.Machine.execIpSetSrc s
  | .ipSetDst => Sys2Proof.Machine.execIpSetDst s
  | .ipSetOptions => Sys2Proof.Machine.execIpSetOptions s
  | .ipSetPayload => Sys2Proof.Machine.execIpSetPayload s
  | .piCreate => Sys2Proof.Machine.execPiCreate s
  | .piSerialize x => Sys2Proof.Machine.execPiSerialize x s
  | .piSetOnlink x => Sys2Proof.Machine.execPiSetOnlink x s
  | .piSetAuto x => Sys2Proof.Machine.execPiSetAuto x s
  | .piSetRouter x => Sys2Proof.Machine.execPiSetRouter x s
  | .piSetValidLt x => Sys2Proof.Machine.execPiSetValidLt x s
  | .piSetPrefLt x => Sys2Proof.Machine.execPiSetPrefLt x s
  | .piSetPlen x => Sys2Proof.Machine.execPiSetPlen x s
  | .piSetPrefix x => Sys2Proof.Machine.execPiSetPrefix x s
  | .raCreate => Sys2Proof.Machine.execRaCreate s
  | .raSerialize => Sys2Proof.Machine.execRaSerialize s
  | .raSetChl => Sys2Proof.Machine.execRaSetChl s
  | .raSetManaged => Sys2Proof.Machine.execRaSetManaged s
  | .raSetOther => Sys2Proof.Machine.execRaSetOther s
  | .raSetHomeagent => Sys2Proof.Machine.execRaSetHomeagent s
  | .raSetDeflt => Sys2Proof.Machine.execRaSetDeflt s
  | .raSetReach => Sys2Proof.Machine.execRaSetReach s
  | .raSetRetrans => Sys2Proof.Machine.execRaSetRetrans s

end Sys2Proof.Machine
end

