-- ==== Sys2Proof/Machine/HostPort.lean ====
section
/-! DEFINITION. Machine/HostPort.lean: the command cycle (R77, R78), the register file (R34 to R37), the host address space
(R40 to R46, R52) and what each host action does (R69, R70, R147). -/

namespace Sys2Proof.Machine

/-! ## The command cycle -/

/-- R78: `Execute(w)`. An illegal word raises IllegalCommand (R66). -/
def execute (w : Word) (s : State) : Result :=
  match decode w with
  | .ok i => exec i s
  | .error _ => raise .illegalCommand s

/-- R77: a host write of `w` to CMD stores the word, then executes it, as one step. The whole command lies within that one
host action, so no host access sees part of it (R50): the one atomicity the block offers (R55). -/
def writeCmd (w : Word) (s : State) : Result := execute w { s with cmd := w }

/-! ## The register file -/

/-- R34: the registers at offsets 0x000 to 0x01C. -/
def controlRegs : List (Nat × Reg) :=
  [(0x000, .status), (0x004, .cmd), (0x008, .operand), (0x00C, .ibufLen), (0x010, .obufLen), (0x014, .valid),
   (0x018, .cksum), (0x01C, .bufMax)]

/-- R34: the registers of the ETH set. -/
def ethRegs : List (Nat × Reg) :=
  [(0x040, .ethDstHi), (0x044, .ethDstLo), (0x048, .ethSrcHi), (0x04C, .ethSrcLo), (0x050, .ethType),
   (0x054, .ethClass), (0x058, .ethPayLen)]

/-- R34: the registers of the IP set. -/
def ipRegs : List (Nat × Reg) :=
  [(0x080, .ipTos), (0x084, .ipId), (0x088, .ipFlags), (0x08C, .ipFrag), (0x090, .ipTtl), (0x094, .ipProto),
   (0x098, .ipSrc), (0x09C, .ipDst), (0x0A0, .ipOptLen), (0x0A4, .ipPayLen), (0x0A8, .ipIhl), (0x0AC, .ipTotlen)]

/-- R34: the registers of PI and of RA.PI. -/
def piRegs : List (Nat × Reg) :=
  [(0x100, .piPrefix 0), (0x104, .piPrefix 1), (0x108, .piPrefix 2), (0x10C, .piPrefix 3), (0x110, .piPlen),
   (0x114, .piFlags), (0x118, .piVlt), (0x11C, .piPlt),
   (0x140, .rapiPrefix 0), (0x144, .rapiPrefix 1), (0x148, .rapiPrefix 2), (0x14C, .rapiPrefix 3), (0x150, .rapiPlen),
   (0x154, .rapiFlags), (0x158, .rapiVlt), (0x15C, .rapiPlt)]

/-- R34: the registers of the RA set. -/
def raRegs : List (Nat × Reg) :=
  [(0x180, .raChl), (0x184, .raFlags), (0x188, .raDeflt), (0x18C, .raReach), (0x190, .raRetrans)]

/-- The host register map (R34): every offset of the register region that is not listed is unmapped. -/
def registerMap : List (Nat × Reg) := controlRegs ++ ethRegs ++ ipRegs ++ piRegs ++ raRegs

/-- What a read of each register returns (R34): packed big-endian (R35), zero-extended, unlisted bits 0 (R36), whatever
the valid bits say. -/
def regValue (s : State) : Reg → Word
  | .status => s.status.code.setWidth 32
  | .cmd => s.cmd
  | .operand => s.operand
  | .ibufLen => s.ibufLen
  | .obufLen => s.obufLen
  | .valid => (validBits s).setWidth 32
  | .cksum => s.cksum.setWidth 32
  | .bufMax => BitVec.ofNat 32 Config.bufMax
  | .ethDstHi => (be16At s.eth.dst.toList 0).setWidth 32
  | .ethDstLo => be32At s.eth.dst.toList 2
  | .ethSrcHi => (be16At s.eth.src.toList 0).setWidth 32
  | .ethSrcLo => be32At s.eth.src.toList 2
  | .ethType => s.eth.type.setWidth 32
  | .ethClass => (classify s.eth.type).setWidth 32
  | .ethPayLen => BitVec.ofNat 32 s.eth.pay.length
  | .ipTos => s.ip.tos.setWidth 32
  | .ipId => s.ip.id.setWidth 32
  | .ipFlags => s.ip.flags.setWidth 32
  | .ipFrag => s.ip.frag.setWidth 32
  | .ipTtl => s.ip.ttl.setWidth 32
  | .ipProto => s.ip.proto.setWidth 32
  | .ipSrc => be32At s.ip.src.toList 0
  | .ipDst => be32At s.ip.dst.toList 0
  | .ipOptLen => (BitVec.ofNat 6 s.ip.opt.length).setWidth 32
  | .ipPayLen => BitVec.ofNat 32 s.ip.pay.length
  | .ipIhl => (BitVec.ofNat 4 s.ip.ihl).setWidth 32
  | .ipTotlen => BitVec.ofNat 32 s.ip.totalLen
  | .piPrefix k => be32At s.pi.pfx.toList (4 * k.val)
  | .piPlen => s.pi.plen.setWidth 32
  | .piFlags => (flagByte s.pi.flags).setWidth 32
  | .piVlt => s.pi.vlt
  | .piPlt => s.pi.plt
  | .rapiPrefix k => be32At s.ra.pi.pfx.toList (4 * k.val)
  | .rapiPlen => s.ra.pi.plen.setWidth 32
  | .rapiFlags => (flagByte s.ra.pi.flags).setWidth 32
  | .rapiVlt => s.ra.pi.vlt
  | .rapiPlt => s.ra.pi.plt
  | .raChl => s.ra.chl.setWidth 32
  | .raFlags => (flagByte s.ra.flags).setWidth 32
  | .raDeflt => s.ra.deflt.setWidth 32
  | .raReach => s.ra.reach
  | .raRetrans => s.ra.retrans

/-- The register a host address names: none if the offset is misaligned (R42) or unlisted (R46). -/
def regAt (off : Nat) : Option Reg := if off % 4 = 0 then registerMap.lookup off else none

/-! ## The host address space -/

/-- The region of a host address, bits 31:24 (R41). -/
def regionOf (a : Word) : Nat := (a.extractLsb' 24 8).toNat

/-- The offset of a host address in its region, bits 23:0 (R41). -/
def offsetOf (a : Word) : Nat := (a.extractLsb' 0 24).toNat

/-- The host address of CMD (R34, R77). -/
def cmdAddr : Word := 0x00000004

/-- The byte a host address names (R41, R45): none in the register region, past the capacity of a buffer, past the length
of a byte sequence, and in an unmapped region. -/
def regionByte (s : State) (a : Word) : Option Byte :=
  let i := offsetOf a
  match regionOf a with
  | 1 => if i < Config.bufMax then some (ibufByte s i) else none
  | 2 => if i < Config.obufMax then some (obufByte s i) else none
  | 3 => s.eth.pay[i]?
  | 4 => s.ip.opt[i]?
  | 5 => s.ip.pay[i]?
  | _ => none

/-- A 32-bit read: the register (R42); 0 at a misaligned or unmapped offset (R42, R46) and outside the data of a byte
region (R45, R46). Where a byte is, R43 gives it to 8-bit reads only, and the data is free (log entry 7). -/
def read32 (s : State) (a : Word) : Word :=
  if regionOf a = 0 then
    match regAt (offsetOf a) with
    | some r => regValue s r
    | none => 0
  else
    match regionByte s a with
    | some _ => Config.freeRead s.draw a
    | none => 0

/-- An 8-bit read: the byte in bits 7:0, bits 31:8 zero (R43); 0 outside the data and where nothing is mapped (R45, R46).
Where a register is, R42 gives it to 32-bit reads only, and the data is free (log entry 7). -/
def read8 (s : State) (a : Word) : Word :=
  if regionOf a = 0 then
    match regAt (offsetOf a) with
    | some _ => Config.freeRead s.draw a
    | none => 0
  else ((regionByte s a).getD 0).setWidth 32

/-- The host writes `v` to a register (R37): only CMD, OPERAND and IBUF_LEN take it, CMD executing it (R17); an IBUF_LEN
above `BUF_MAX` is ignored (R20). -/
def writeReg (r : Reg) (v : Word) (s : State) : Result :=
  match r with
  | .cmd => writeCmd v s
  | .operand => .next { s with operand := v }
  | .ibufLen => .next (if v.toNat ≤ Config.bufMax then { s with ibufLen := v } else s)
  | _ => .next s

/-- The address names an IBUF cell (R41, R44). -/
def inIbuf (a : Word) : Bool := decide (regionOf a = 1 ∧ offsetOf a < Config.bufMax)

/-- A 32-bit write: a register takes it (R37, R42); elsewhere it has no effect (R42, R44, R46), but at an IBUF cell, where
R43 gives the effect of 8-bit writes only: there the cells it stores are free, and DESIGN CHOICE: a repeated write of the
same value, at a new draw, may store others than the first, against R52's sentence on repeated writes (log entry 7). -/
def write32 (a v : Word) (s : State) : Result :=
  if regionOf a = 0 then
    match regAt (offsetOf a) with
    | some r => writeReg r v s
    | none => .next s
  else if inIbuf a then
    .next { s with ibuf := Memory.writeCells Config.bufMax s.ibuf (Config.freeStore s.draw a v) }
  else .next s

/-- An 8-bit write: an IBUF cell below `BUF_MAX` takes bits 7:0 of the data (R43, R44); elsewhere it has no effect (R37,
R42, R44, R46), but at CMD, OPERAND and IBUF_LEN, where R42 gives the effect of 32-bit writes only: there it has no effect
or the effect of a 32-bit write of some word, which is free, and DESIGN CHOICE: a repeated write of the same value, at a new
draw, may give another word than the first, against R52's sentence on repeated writes (log entry 7). -/
def write8 (a v : Word) (s : State) : Result :=
  if regionOf a = 0 then
    match regAt (offsetOf a), Config.freeRegWrite s.draw a v with
    | some r, some w => writeReg r w s
    | _, _ => .next s
  else if inIbuf a then
    .next { s with ibuf := Memory.write s.ibuf (offsetOf a) (v.extractLsb' 0 8) }
  else .next s

/-! ## The host's actions -/

/-- The host receives the data of a read (log entry 5). The block's own state does not change (R52). -/
def State.logRead (s : State) (v : Word) : State :=
  { s with host := { s.host with reads := v :: s.host.reads } }

/-- The host goes on to another line of its script (R69). -/
def State.goTo (s : State) (line : Nat) : State := { s with host := { s.host with line := line } }

/-- What each step does before the action itself: the host's index moves on (R15) and the draw for unwritten cells is a
new one (R151: "once per command"; log entry 7). -/
def State.advance (s : State) : State :=
  { s with host := { s.host with line := s.host.line + 1 }, draw := s.draw + 1 }

/-- READOUT: reads of the first `n` OBUF cells, in order (R70). -/
def readCells (s : State) : Nat → State
  | 0 => s
  | n + 1 => let t := readCells s n; t.logRead (read8 t (0x02000000#32 + BitVec.ofNat 32 n))

/-- The line at which the script declares a label. -/
def labelLine (sc : Script) (name : Nat) : Option Nat := sc.findIdx? fun a => a == HostAction.label name

/-- R69: `BNE_STATUS c, label`: an R32 of STATUS, then the host's branch. -/
def branchOnStatus (code : Word) (name : Nat) (s : State) : Result :=
  let v := read32 s 0x00000000
  let t := s.logRead v
  if v = code then .next t
  else
    match labelLine s.host.script name with
    | some line => .next (t.goTo line)
    | none => .fault (.unknownLabel name)

/-- R147: the reset event. Every element of R13 takes its reset value; the host's side is outside the block and goes on
(log entry 10). -/
def State.resetBlock (s : State) : State := { State.reset with host := s.host, draw := s.draw }

/-- What a host action does (R53: one at a time, in order). Both access widths are defined at every address. Every access is
a read or a write; none is a load-reserved, a store-conditional or a read-modify-write (R55, `hostStep_read_or_write`). -/
def hostStep (act : HostAction) (s : State) : Result :=
  match act with
  | .w32 a v => write32 a v s
  | .w8 a v => write8 a v s
  | .r32 a => .next (s.logRead (read32 s a))
  | .r8 a => .next (s.logRead (read8 s a))
  | .readout => .next (readCells (s.logRead (read32 s 0x00000010)) s.obufLen.toNat)
  | .bneStatus c n => branchOnStatus c n s
  | .label _ => .next s
  | .reset => .next s.resetBlock

/-- The next line of the host's script, if control has not passed the last one (R157). -/
def nextAction (s : State) : Option HostAction := s.host.script[s.host.line]?

/-- R157: the run has ended. -/
def ended (s : State) : Bool := (nextAction s).isNone

/-- One step of the whole: the host's next action, or, once the run has ended, nothing: the block "is idle and keeps all
state" (R146, R79; log entry 6). -/
def runLine (s : State) : Result :=
  match nextAction s with
  | some act => hostStep act s.advance
  | none => .next s

end Sys2Proof.Machine
end

