-- ==== Sys2Proof/Machine/Script.lean ====
section
/-! DEFINITION. Machine/Script.lean: the pseudo-instructions of host scripts and their expansions (R70), and the check of a
script against the syntax of R69. -/

namespace Sys2Proof.Machine

/-- R70: `LOAD b0 ... b(n-1)` from cell `i` on: the byte writes. -/
def loadCells (i : Nat) : Bytes → Script
  | [] => []
  | b :: rest => .w8 (0x01000000#32 + BitVec.ofNat 32 i) (b.setWidth 32) :: loadCells (i + 1) rest

/-- R70: `LOAD b0 ... b(n-1)`: the byte writes, then IBUF_LEN. -/
def load (bs : Bytes) : Script := loadCells 0 bs ++ [.w32 0x0000000C (BitVec.ofNat 32 bs.length)]

/-- R70: `LOAD` requires `n <= BUF_MAX`. -/
def loadOk (bs : Bytes) : Prop := bs.length ≤ Config.bufMax

/-- R69, R70: `CMD MNEMONIC` and `CMD MNEMONIC.RA` write only CMD. -/
def cmd (i : Instr) : Script := [.w32 cmdAddr (encode i)]

/-- R70: `CMD MNEMONIC, v` writes OPERAND, then CMD. -/
def cmdWith (i : Instr) (v : Word) : Script := .w32 0x00000008 v :: cmd i

/-- R69: `W32` writes the register region and `W8` a byte region (R41). The reads may name any address; R69 gives them no
region. A line that breaks this still has its step (log entry 7). -/
def widthOk : HostAction → Bool
  | .w32 a _ => decide (regionOf a = 0)
  | .w8 a _ => decide (1 ≤ regionOf a ∧ regionOf a ≤ 5)
  | .r32 _ | .r8 _ | .readout | .bneStatus _ _ | .label _ | .reset => true

/-- A script in the syntax of R69: the widths of its writes, declared branch targets, distinct labels. -/
def scriptWf (sc : Script) : Bool :=
  sc.all widthOk && Script.targetsDeclared sc && Script.labelsDistinct sc

end Sys2Proof.Machine
end

