-- ==== Sys2Proof/Machine/Step.lean ====
section
/-! DEFINITION. Machine/Step.lean: one step of the machine, and placing a command where the next step takes it. -/

namespace Sys2Proof.Machine

/-- One step: the host's next action takes effect (R53), a CMD write executing its command (R77, R79). -/
def step (s : State) : Host.Outcome State Fault Refusal := runLine s

/-- The block fetches nothing: a command arrives as a host write to CMD (R15, R56). So the command `w` is placed as the
one line of the host's script, a 32-bit write of `w` to CMD, with the host at that line (log entry 5). The command is 32
bits long (R68); bits above `nbits` are 0. -/
def State.withFetchWord (s : State) (nbits w : Nat) : State :=
  { s with host := { s.host with script := [.w32 cmdAddr (BitVec.ofNat 32 (w % 2 ^ nbits))], line := 0 } }

end Sys2Proof.Machine
end

