-- ==== Sys2Proof/Safety.lean ====
section
/-! DEFINITION. Safety.lean: the invariant of the machine and the words the claims are stated in. -/

namespace Sys2Proof.Machine

/-- What holds at reset and after every step. The fields cite the rules that say so; the `...Fresh` fields say that a set
that was never constructed still reads its reset values, since no command changes an unconstructed set (R24, R34, R82). -/
structure State.Inv (s : State) : Prop where
  /-- IBUF is in canonical form. -/
  ibufWf : Memory.wf s.ibuf
  /-- IBUF has `BUF_MAX` cells (R19). -/
  ibufCells : ∀ c ∈ s.ibuf, c.1 < Config.bufMax
  /-- `IBUF_LEN <= BUF_MAX` (R20). -/
  ibufLenLe : s.ibufLen.toNat ≤ Config.bufMax
  /-- OBUF is in canonical form. -/
  obufWf : Memory.wf s.obuf
  /-- OBUF has `OBUF_MAX` cells (R21). -/
  obufCells : ∀ c ∈ s.obuf, c.1 < Config.obufMax
  /-- `OBUF_LEN <= OBUF_MAX` (R13, R22). -/
  obufLenLe : s.obufLen.toNat ≤ Config.obufMax
  /-- The output `OBUF[0..OBUF_LEN)` holds no unwritten cell (R22, R59). -/
  obufWritten : ∀ i, i < s.obufLen.toNat → (Memory.read s.obuf i).isSome = true
  /-- `len(ETH.PAY) <= BUF_MAX - 14` (R26). -/
  ethPayLe : s.eth.pay.length + 14 ≤ Config.bufMax
  /-- `len(IP.OPT) mod 4 = 0` (R29). -/
  ipOptMod : s.ip.opt.length % 4 = 0
  /-- `len(IP.OPT) <= 40` (R29). -/
  ipOptLe : s.ip.opt.length ≤ 40
  /-- `len(IP.PAY) <= BUF_MAX` (R28). -/
  ipPayLe : s.ip.pay.length ≤ Config.bufMax
  /-- Bits 4:0 of PI.FLAGS are 0 (R31). -/
  piFlagsLow : s.pi.flags &&& 0x1F#8 = 0#8
  /-- Bits 4:0 of RA.FLAGS are 0 (R32). -/
  raFlagsLow : s.ra.flags &&& 0x1F#8 = 0#8
  /-- Bits 4:0 of RA.PI.FLAGS are 0 (R31, R33). -/
  raPiFlagsLow : s.ra.pi.flags &&& 0x1F#8 = 0#8
  ethFresh : s.ethV = false → s.eth = EthSet.zero
  ipFresh : s.ipV = false → s.ip = IpSet.zero
  piFresh : s.piV = false → s.pi = PiSet.zero
  raFresh : s.raV = false → s.ra = RaSet.zero

/-- R149: the host has written every cell of the input. -/
def inputWritten (s : State) : Prop := ∀ i, i < inputLen s → (Memory.read s.ibuf i).isSome = true

/-- The host action `act` delivers `v` to the host and changes nothing else (R52); the read data, newest first, is the
model's own field (log entry 5). -/
def Delivers (act : HostAction) (s : State) (v : Word) : Prop :=
  hostStep act s = .next { s with host := { s.host with reads := v :: s.host.reads } }

/-- What a successful serialize of the bytes `o` does from `s` to `t` (R59): STATUS is OK, OBUF_LEN is `len(o)`,
`OBUF[0..len(o))` holds `o`, every later cell is as before, and nothing else changes. -/
def Emitted (s t : State) (o : Bytes) : Prop :=
  t.status = .ok ∧ t.obufLen = BitVec.ofNat 32 o.length ∧
  (∀ i b, o[i]? = some b → Memory.read t.obuf i = some b) ∧
  (∀ i, o.length ≤ i → Memory.read t.obuf i = Memory.read s.obuf i) ∧
  t = { s with obuf := t.obuf, obufLen := t.obufLen, status := t.status }

/-- A setter with a numeric operand: `w` is its word; on a constructed set it takes effect when OPERAND is at most `limit`
and raises ValueTooLarge above it, and on an unconstructed set it raises NotConstructed. -/
def NumericSetter (w : Word) (i : Instr) (valid : State → Bool) (limit : Nat) (effect : State → State) : Prop :=
  decode w = .ok i ∧ ∀ s : State,
    (valid s = true → s.operand.toNat ≤ limit → exec i s = .next { effect s with status := .ok }) ∧
    (valid s = true → limit < s.operand.toNat → exec i s = .next { s with status := .valueTooLarge }) ∧
    (valid s = false → exec i s = .next { s with status := .notConstructed })

/-- A setter with a `u32` operand, which every value passes. -/
def WordSetter (w : Word) (i : Instr) (valid : State → Bool) (effect : State → State) : Prop :=
  decode w = .ok i ∧ ∀ s : State,
    (valid s = true → exec i s = .next { effect s with status := .ok }) ∧
    (valid s = false → exec i s = .next { s with status := .notConstructed })

/-- A setter with an address operand of `n` bytes, the whole input. -/
def AddressSetter (n : Nat) (w : Word) (i : Instr) (valid : State → Bool) (effect : Vector Byte n → State → State) :
    Prop :=
  decode w = .ok i ∧ ∀ s : State,
    (∀ a : Vector Byte n, valid s = true → input s = a.toList →
      exec i s = .next { effect a s with status := .ok }) ∧
    (valid s = true → s.ibufLen.toNat ≠ n → exec i s = .next { s with status := .addressFamilyMismatch }) ∧
    (valid s = false → exec i s = .next { s with status := .notConstructed })

/-- `f` is the flag byte `old` with bit `n` set to `v` and every other bit unchanged. -/
def FlagWritten (n : Nat) (v : Bool) (old f : Byte) : Prop :=
  ∀ j, j < 8 → f.getLsbD j = if j = n then v else old.getLsbD j

/-- A setter of one flag bit with a `u1` operand; `effect f` writes the flag byte `f`. -/
def FlagSetter (w : Word) (i : Instr) (valid : State → Bool) (n : Nat) (flags : State → Byte)
    (effect : Byte → State → State) : Prop :=
  decode w = .ok i ∧ ∀ s : State,
    (∀ f, valid s = true → s.operand.toNat ≤ 1 → FlagWritten n (s.operand.getLsbD 0) (flags s) f →
      exec i s = .next { effect f s with status := .ok }) ∧
    (valid s = true → 1 < s.operand.toNat → exec i s = .next { s with status := .valueTooLarge }) ∧
    (valid s = false → exec i s = .next { s with status := .notConstructed })

/-- The valid bit R82 says a command tests, or none for the commands it says make no check. -/
def instanceBit (s : State) : Instr → Option Bool
  | .ethParse | .ipNew | .ipParse | .piCreate | .raCreate | .ipCksum => none
  | .ethSerialize => some s.ethV
  | .ipSerialize | .ipSetTos | .ipSetId | .ipSetTtl | .ipSetProto => some s.ipV
  | .ipSetSrc | .ipSetDst | .ipSetOptions | .ipSetPayload => some s.ipV
  | .piSerialize x | .piSetOnlink x | .piSetAuto x | .piSetRouter x => some (s.vSel x)
  | .piSetValidLt x | .piSetPrefLt x | .piSetPlen x | .piSetPrefix x => some (s.vSel x)
  | .raSerialize | .raSetChl | .raSetManaged | .raSetOther => some s.raV
  | .raSetHomeagent | .raSetDeflt | .raSetReach | .raSetRetrans => some s.raV

/-- The largest value of a command's `u1`, `u8` or `u16` operand (R64), or none if it has no such operand. -/
def numericLimit : Instr → Option Nat
  | .ethParse | .ethSerialize | .ipNew | .ipParse | .ipSerialize | .ipCksum => none
  | .ipSetSrc | .ipSetDst | .ipSetOptions | .ipSetPayload => none
  | .ipSetTos | .ipSetTtl | .ipSetProto => some 0xFF
  | .ipSetId => some 0xFFFF
  | .piCreate => some 0xFF
  | .piSerialize _ | .piSetValidLt _ | .piSetPrefLt _ | .piSetPrefix _ => none
  | .piSetOnlink _ | .piSetAuto _ | .piSetRouter _ => some 1
  | .piSetPlen _ => some 0xFF
  | .raCreate | .raSerialize | .raSetReach | .raSetRetrans => none
  | .raSetChl => some 0xFF
  | .raSetManaged | .raSetOther | .raSetHomeagent => some 1
  | .raSetDeflt => some 0xFFFF

/-- The length a command's address operand must have (R64, R84), or none if it has no address operand. -/
def addressLength : Instr → Option Nat
  | .ipSetSrc | .ipSetDst => some 4
  | .piCreate | .raCreate | .piSetPrefix _ => some 16
  | .ethParse | .ethSerialize | .ipNew | .ipParse | .ipSerialize | .ipCksum => none
  | .ipSetTos | .ipSetId | .ipSetTtl | .ipSetProto | .ipSetOptions | .ipSetPayload => none
  | .piSerialize _ | .piSetOnlink _ | .piSetAuto _ | .piSetRouter _ => none
  | .piSetValidLt _ | .piSetPrefLt _ | .piSetPlen _ => none
  | .raSerialize | .raSetChl | .raSetManaged | .raSetOther => none
  | .raSetHomeagent | .raSetDeflt | .raSetReach | .raSetRetrans => none

/-- The command reads OPERAND (R64: the forms `u1`, `u8`, `u16`, `u32`, `addr16+u8`). -/
def readsOperand : Instr → Bool
  | .ipSetTos | .ipSetId | .ipSetTtl | .ipSetProto | .piCreate => true
  | .piSetOnlink _ | .piSetAuto _ | .piSetRouter _ | .piSetValidLt _ | .piSetPrefLt _ | .piSetPlen _ => true
  | .raSetChl | .raSetManaged | .raSetOther | .raSetHomeagent | .raSetDeflt | .raSetReach | .raSetRetrans => true
  | .ethParse | .ethSerialize | .ipNew | .ipParse | .ipSerialize | .ipCksum => false
  | .ipSetSrc | .ipSetDst | .ipSetOptions | .ipSetPayload => false
  | .piSerialize _ | .piSetPrefix _ | .raCreate | .raSerialize => false

/-- The command reads IBUF (R64: the forms `buf`, `addr4`, `addr16`, `addr16+u8`). -/
def readsInput : Instr → Bool
  | .ethParse | .ipParse | .ipCksum | .ipSetSrc | .ipSetDst | .ipSetOptions | .ipSetPayload => true
  | .piCreate | .piSetPrefix _ | .raCreate => true
  | .ethSerialize | .ipNew | .ipSerialize | .ipSetTos | .ipSetId | .ipSetTtl | .ipSetProto => false
  | .piSerialize _ | .piSetOnlink _ | .piSetAuto _ | .piSetRouter _ => false
  | .piSetValidLt _ | .piSetPrefLt _ | .piSetPlen _ => false
  | .raSerialize | .raSetChl | .raSetManaged | .raSetOther => false
  | .raSetHomeagent | .raSetDeflt | .raSetReach | .raSetRetrans => false

/-- The command is one of the four serialize commands (R153). -/
def isSerialize : Instr → Bool
  | .ethSerialize | .ipSerialize | .piSerialize _ | .raSerialize => true
  | .ethParse | .ipNew | .ipParse | .ipCksum | .ipSetTos | .ipSetId | .ipSetTtl | .ipSetProto => false
  | .ipSetSrc | .ipSetDst | .ipSetOptions | .ipSetPayload => false
  | .piCreate | .piSetOnlink _ | .piSetAuto _ | .piSetRouter _ => false
  | .piSetValidLt _ | .piSetPrefLt _ | .piSetPlen _ | .piSetPrefix _ => false
  | .raCreate | .raSetChl | .raSetManaged | .raSetOther => false
  | .raSetHomeagent | .raSetDeflt | .raSetReach | .raSetRetrans => false

/-- The register set a command acts on: one of the four sets of R24, or CKSUM. A `.RA` command acts on the RA set, which
owns RA.PI (R33). -/
inductive Target where
  | eth | ip | pi | ra | cksum
  deriving DecidableEq, Repr

/-- The target of a Prefix Information command, by its `sel` (R61). -/
def PiSel.target : PiSel → Target
  | .standalone => .pi
  | .routerAdv => .ra

/-- The target of each command. -/
def target : Instr → Target
  | .ethParse | .ethSerialize => .eth
  | .ipCksum => .cksum
  | .ipNew | .ipParse | .ipSerialize | .ipSetTos | .ipSetId | .ipSetTtl | .ipSetProto => .ip
  | .ipSetSrc | .ipSetDst | .ipSetOptions | .ipSetPayload => .ip
  | .piCreate => .pi
  | .piSerialize x | .piSetOnlink x | .piSetAuto x | .piSetRouter x => PiSel.target x
  | .piSetValidLt x | .piSetPrefLt x | .piSetPlen x | .piSetPrefix x => PiSel.target x
  | .raCreate | .raSerialize | .raSetChl | .raSetManaged | .raSetOther => .ra
  | .raSetHomeagent | .raSetDeflt | .raSetReach | .raSetRetrans => .ra

/-- `s` with the sets a command with target `k` does not act on taken from `o`: each such set with its valid bit, and
CKSUM. -/
def State.withOthers (k : Target) (s o : State) : State :=
  { s with
    eth := if k = .eth then s.eth else o.eth, ethV := if k = .eth then s.ethV else o.ethV,
    ip := if k = .ip then s.ip else o.ip, ipV := if k = .ip then s.ipV else o.ipV,
    pi := if k = .pi then s.pi else o.pi, piV := if k = .pi then s.piV else o.piV,
    ra := if k = .ra then s.ra else o.ra, raV := if k = .ra then s.raV else o.raV,
    cksum := if k = .cksum then s.cksum else o.cksum }

/-- The status codes R134 lets each command write, OK included. -/
def codesOf : Instr → List Status
  | .ethParse => [.ok, .malformedHeader]
  | .ethSerialize => [.ok, .notConstructed]
  | .ipNew => [.ok]
  | .ipParse => [.ok, .tooShort, .unsupportedVersion, .invalidHeaderLength, .invalidTotalLength, .checksumMismatch]
  | .ipSerialize => [.ok, .notConstructed, .valueTooLarge]
  | .ipCksum => [.ok, .tooShort, .invalidHeaderLength]
  | .ipSetTos | .ipSetId | .ipSetTtl | .ipSetProto => [.ok, .notConstructed, .valueTooLarge]
  | .ipSetSrc | .ipSetDst => [.ok, .notConstructed, .addressFamilyMismatch]
  | .ipSetOptions => [.ok, .notConstructed, .invalidOptionsLength]
  | .ipSetPayload => [.ok, .notConstructed]
  | .piCreate => [.ok, .addressFamilyMismatch, .valueTooLarge]
  | .piSerialize _ => [.ok, .notConstructed]
  | .piSetOnlink _ | .piSetAuto _ | .piSetRouter _ | .piSetPlen _ => [.ok, .notConstructed, .valueTooLarge]
  | .piSetValidLt _ | .piSetPrefLt _ => [.ok, .notConstructed]
  | .piSetPrefix _ => [.ok, .notConstructed, .addressFamilyMismatch]
  | .raCreate => [.ok, .addressFamilyMismatch]
  | .raSerialize => [.ok, .notConstructed]
  | .raSetChl | .raSetManaged | .raSetOther | .raSetHomeagent | .raSetDeflt => [.ok, .notConstructed, .valueTooLarge]
  | .raSetReach | .raSetRetrans => [.ok, .notConstructed]

/-- The full fold of R108, which CK does not do: the sum folded twice, after which no carry remains (R105). -/
def fullFold (sum : Nat) : Nat :=
  let f := sum % 0x10000 + sum / 0x10000
  f % 0x10000 + f / 0x10000

end Sys2Proof.Machine
end

