-- ==== Sys2Proof/Certificates/Slice0/Obligations.lean ====
section
/-! DEFINITION. Certificates/Slice0/Obligations.lean: the statements for the provers, from the numbered rules of spec/. Each
docstring names the rule. `input s` is the byte sequence `IBUF[0..IBUF_LEN)` a command reads (statement InputIsIbufPrefix);
what an unwritten cell shows is free, so every statement holds for every value of it. -/

open Sys2Proof Sys2Proof.Machine

/-! ## Reset, the step, decoding -/

/-- R38: every element of R13 at its reset value, every buffer cell unwritten. -/
def Obligations.ResetValues : Prop :=
  let s := State.reset
  s.status = .ok ∧ s.cmd = 0#32 ∧ s.operand = 0#32 ∧ s.ibufLen = 0#32 ∧ s.obufLen = 0#32 ∧ s.cksum = 0#16 ∧
  (∀ i, Memory.read s.ibuf i = none) ∧ (∀ i, Memory.read s.obuf i = none) ∧
  s.ethV = false ∧ s.ipV = false ∧ s.piV = false ∧ s.raV = false ∧
  s.eth = { dst := #v[0, 0, 0, 0, 0, 0], src := #v[0, 0, 0, 0, 0, 0], type := 0, pay := [] } ∧
  s.ip = { tos := 0, id := 0, flags := 0, frag := 0, ttl := 0, proto := 0, src := #v[0, 0, 0, 0], dst := #v[0, 0, 0, 0],
           opt := [], pay := [] } ∧
  s.pi = { pfx := #v[0, 0, 0, 0, 0, 0, 0, 0, 0, 0, 0, 0, 0, 0, 0, 0], plen := 0, flags := 0, vlt := 0, plt := 0 } ∧
  s.ra = { chl := 0, flags := 0, deflt := 0, reach := 0, retrans := 0, pi := s.pi } ∧
  read32 s 0x00000054 = 0#32

/-- R147: the reset event gives every element of R13 its reset value in any state; the host's side is outside the block and
keeps its script, line and read data (the model's own fields, log entries 5 and 10). -/
def Obligations.ResetEventRestoresResetState : Prop :=
  ∀ s : State, ∃ t, hostStep .reset s = .next t ∧ t.host = s.host ∧
    { t with host := State.reset.host, draw := State.reset.draw } = State.reset

/-- R77, R78: on a script line that writes `w` to CMD, the step stores `w` in CMD and then executes it; a word that decodes
runs `exec`, an illegal one raises IllegalCommand. Around that the step moves the host's line and the draw (the model's own
fields, log entries 4 and 5). -/
def Obligations.StepRunsDecodedCommand : Prop :=
  ∀ (s s1 : State) (w : Word), s.host.script[s.host.line]? = some (.w32 0x00000004 w) →
    s1 = { s with cmd := w, host := { s.host with line := s.host.line + 1 }, draw := s.draw + 1 } →
    (∀ i, decode w = .ok i → step s = exec i s1) ∧
    (∀ e, decode w = .error e → step s = .next { s1 with status := .illegalCommand })

/-- R79, R146: between commands the block keeps all state. That a step past the script's last line changes nothing is the
model's choice (log entry 6, DEDUCED): R157 ends the run there and says nothing of what follows. -/
def Obligations.IdleStepKeepsAllState : Prop :=
  ∀ s : State, s.host.script.length ≤ s.host.line → step s = .next s

/-- R69: BNE_STATUS reads STATUS and jumps to the label if STATUS is not `c`. The model's choices, none of them R69's: of two
declarations the branch goes to the first, and with none the model stops by name (log entry 8); the STATUS read is recorded
among the read data (log entry 9); the host's line and the draw move as the model's own fields do (log entries 4 and 5). -/
def Obligations.BranchOnStatusFollowsScript : Prop :=
  ∀ (s s1 : State) (c : Word) (name : Nat), s.host.script[s.host.line]? = some (.bneStatus c name) →
    s1 = { s with host := { s.host with line := s.host.line + 1, reads := s.status.code.setWidth 32 :: s.host.reads },
                  draw := s.draw + 1 } →
    (s.status.code.setWidth 32 = c → step s = .next s1) ∧
    (s.status.code.setWidth 32 ≠ c →
      (∀ k : Nat, s.host.script[k]? = some (HostAction.label name) → (∀ j : Nat, j < k → s.host.script[j]? ≠ some (HostAction.label name)) →
        step s = .next { s1 with host := { s1.host with line := k } }) ∧
      ((∀ k : Nat, s.host.script[k]? ≠ some (HostAction.label name)) → step s = .fault (.unknownLabel name)))

/-- R65: words written out from the opcode map, one or more of every unit. Which check an illegal word is said to fail is
the model's choice of names (log entry 17): the block has the one code IllegalCommand. -/
def Obligations.SampleWordsDecode : Prop :=
  decode 0x00000010 = .ok .ethParse ∧ decode 0x00000021 = .ok .ipParse ∧ decode 0x00000023 = .ok .ipCksum ∧
  decode 0x00000026 = .ok .ipSetTtl ∧ decode 0x00000030 = .ok .piCreate ∧
  decode 0x00000037 = .ok (.piSetPlen .standalone) ∧ decode 0x00000137 = .ok (.piSetPlen .routerAdv) ∧
  decode 0x00000048 = .ok .raSetRetrans ∧
  decode 0x00000130 = .error .selNotAllowed ∧ decode 0x00000012 = .error .unknownOpcode ∧
  decode 0x00000210 = .error .reservedBits ∧ decode 0x00000000 = .error .unknownOpcode

/-- Encode and decode agree both ways on every command and every 32-bit word: no bit is dropped, no second word means the
same command. -/
def Obligations.DecodeEncodeAgree : Prop :=
  (∀ i : Instr, decode (encode i) = .ok i) ∧ ∀ (w : Word) (i : Instr), decode w = .ok i → encode i = w

/-- R65: the legal words are exactly 40: `zext_32(opcode)`, and `zext_32(opcode) | 0x100` where the map marks "sel". -/
def Obligations.FortyLegalWords : Prop :=
  ∃ l : List Word, l.Nodup ∧ l.length = 40 ∧ (∀ w, (∃ i, decode w = .ok i) ↔ w ∈ l) ∧
    ∀ w, w ∈ l ↔ ∃ op ∈ opcodes, w = op.setWidth 32 ∨ (op ∈ selOpcodes ∧ w = op.setWidth 32 ||| 0x100#32)

/-- R62, R66: a word fails none of the checks exactly if it decodes, and a CMD write of an illegal word raises
IllegalCommand: CMD holds the word, and nothing but CMD and STATUS changes. The first three clauses say which check a word
fails, in the order `rsv`, opcode, `sel` of R78; the three names are the model's choice (log entry 17), the block has the one
code. -/
def Obligations.IllegalWordsRaiseIllegalCommand : Prop :=
  ∀ w : Word,
    (decode w = .error .reservedBits ↔ Word.rsvZero w = false) ∧
    (decode w = .error .unknownOpcode ↔ Word.rsvZero w = true ∧ Word.opcodeListed w = false) ∧
    (decode w = .error .selNotAllowed ↔
      Word.rsvZero w = true ∧ Word.opcodeListed w = true ∧ Word.selAllowed w = false) ∧
    ((∃ i, decode w = .ok i) ↔ Word.legal w = true) ∧
    (Word.legal w = false → ∀ s : State,
      hostStep (.w32 0x00000004 w) s = .next { s with cmd := w, status := .illegalCommand })

/-! ## All commands -/

/-- R79: every command completes, in every state, without a fault or a refusal. So does every host action, at every address
and either width, but a branch: "neither raises an error" (R42, R46). That an access of a width its region does not list (an
8-bit one to a register, a 32-bit one to a byte) completes is the model's choice (log entry 7); what a branch does is
BranchOnStatusFollowsScript. -/
def Obligations.EveryCommandCompletes : Prop :=
  (∀ (i : Instr) (s : State), ∃ t, exec i s = .next t) ∧
  ∀ (act : HostAction) (s : State), (∀ c n, act ≠ .bneStatus c n) → ∃ t, hostStep act s = .next t

/-- R81, R135: a command that ends with a code other than OK changes no state but STATUS. -/
def Obligations.FailedCommandChangesOnlyStatus : Prop :=
  ∀ (i : Instr) (s t : State), exec i s = .next t → t.status ≠ .ok → t = { s with status := t.status }

/-- R134: the codes each command can write. -/
def Obligations.CodesOfEachCommand : Prop :=
  ∀ (i : Instr) (s t : State), exec i s = .next t → t.status ∈ codesOf i

/-- R133: the code numbers; no two names share one, and 12 to 15 are no status. -/
def Obligations.StatusCodeNumbers : Prop :=
  Status.code .ok = 0 ∧ Status.code .tooShort = 1 ∧ Status.code .malformedHeader = 2 ∧
  Status.code .unsupportedVersion = 3 ∧ Status.code .invalidHeaderLength = 4 ∧ Status.code .invalidTotalLength = 5 ∧
  Status.code .checksumMismatch = 6 ∧ Status.code .valueTooLarge = 7 ∧ Status.code .invalidOptionsLength = 8 ∧
  Status.code .addressFamilyMismatch = 9 ∧ Status.code .notConstructed = 10 ∧ Status.code .illegalCommand = 11 ∧
  ∀ c : Status, (Status.code c).toNat < 12

/-- R18, R19, R20, R49: no command writes OPERAND, IBUF, IBUF_LEN or CMD, nor the model's own host side and draw. -/
def Obligations.CommandsKeepTheirInputs : Prop :=
  ∀ (i : Instr) (s t : State), exec i s = .next t →
    t.operand = s.operand ∧ t.ibuf = s.ibuf ∧ t.ibufLen = s.ibufLen ∧ t.cmd = s.cmd ∧ t.host = s.host ∧ t.draw = s.draw

/-- R63, R64, R80: a command of a form that takes no number ignores OPERAND, one that takes no bytes ignores IBUF and
IBUF_LEN, and the earlier STATUS has no influence on anything. -/
def Obligations.CommandsIgnoreWhatTheyDoNotTake : Prop :=
  ∀ (i : Instr) (s t : State), exec i s = .next t →
    (readsOperand i = false → ∀ v, exec i { s with operand := v } = .next { t with operand := v }) ∧
    (readsInput i = false → ∀ m l, exec i { s with ibuf := m, ibufLen := l } = .next { t with ibuf := m, ibufLen := l }) ∧
    (∀ c, exec i { s with status := c } = .next t)

/-- R24: no command clears a valid bit, and only the command that builds a set sets its bit. -/
def Obligations.OnlyBuildersSetValidBits : Prop :=
  ∀ (i : Instr) (s t : State), exec i s = .next t →
    (t.ethV = s.ethV ∨ (i = .ethParse ∧ t.ethV = true)) ∧
    (t.ipV = s.ipV ∨ ((i = .ipParse ∨ i = .ipNew) ∧ t.ipV = true)) ∧
    (t.piV = s.piV ∨ (i = .piCreate ∧ t.piV = true)) ∧
    (t.raV = s.raV ∨ (i = .raCreate ∧ t.raV = true))

/-- R21, R22, R23, R103: only IP_CKSUM writes CKSUM, only the serialize commands write OBUF and OBUF_LEN, and no command but
IP_PARSE and IP_NEW changes IP.FLAGS or IP.FRAG. -/
def Obligations.ReadOnlyStateHasNoOtherWriter : Prop :=
  ∀ (i : Instr) (s t : State), exec i s = .next t →
    (i ≠ .ipCksum → t.cksum = s.cksum) ∧ (isSerialize i = false → t.obuf = s.obuf ∧ t.obufLen = s.obufLen) ∧
    (i ≠ .ipParse → i ≠ .ipNew → t.ip.flags = s.ip.flags ∧ t.ip.frag = s.ip.frag)

/-- R33 and the frame of every command: a command changes no set but its target (a `.RA` command's target is the RA set),
and a PI command on RA.PI changes no other RA field. -/
def Obligations.CommandsChangeOnlyTheirTarget : Prop :=
  ∀ (i : Instr) (s t : State), exec i s = .next t →
    (target i ≠ .eth → t.eth = s.eth ∧ t.ethV = s.ethV) ∧ (target i ≠ .ip → t.ip = s.ip ∧ t.ipV = s.ipV) ∧
    (target i ≠ .pi → t.pi = s.pi ∧ t.piV = s.piV) ∧ (target i ≠ .ra → t.ra = s.ra ∧ t.raV = s.raV) ∧
    (i.selBit = 1#1 → t.ra = { s.ra with pi := t.ra.pi } ∧ t.raV = s.raV)

/-- R2: no unit reads another unit's state. Two states that differ only in the sets a command does not act on give the same
outcome, and those sets come through as they were. -/
def Obligations.UnitsDoNotReadEachOther : Prop :=
  ∀ (i : Instr) (s t o : State), exec i s = .next t →
    exec i (s.withOthers (target i) o) = .next (t.withOthers (target i) o)

/-- R82: a command whose valid bit is 0 raises NotConstructed and changes nothing else, whatever its operands; a command
that R82 says makes no check never raises it. -/
def Obligations.InstanceCheckComesFirst : Prop :=
  ∀ (i : Instr) (s : State),
    (instanceBit s i = some false → exec i s = .next { s with status := .notConstructed }) ∧
    (instanceBit s i = none → ∀ t, exec i s = .next t → t.status ≠ .notConstructed)

/-- R83: a `u1`, `u8` or `u16` operand above its field's largest value raises ValueTooLarge, once the checks before it have
passed (the valid bit; for PI_CREATE the address check). -/
def Obligations.WidthCheckRaises : Prop :=
  ∀ (i : Instr) (s : State) (n : Nat), numericLimit i = some n → n < s.operand.toNat →
    (instanceBit s i = some true ∨ (i = .piCreate ∧ s.ibufLen.toNat = 16)) →
    exec i s = .next { s with status := .valueTooLarge }

/-- R84: an address operand of another length than its form requires raises AddressFamilyMismatch. -/
def Obligations.AddressCheckRaises : Prop :=
  ∀ (i : Instr) (s : State) (n : Nat), addressLength i = some n → s.ibufLen.toNat ≠ n → instanceBit s i ≠ some false →
    exec i s = .next { s with status := .addressFamilyMismatch }

/-- R64, R151: the input is `IBUF[0..IBUF_LEN)` and a written cell shows its byte. That an unwritten cell shows the free byte
of the current draw, where R151 also allows a fault, is the model's choice (log entries 3 and 4); nothing is known of the
byte. -/
def Obligations.InputIsIbufPrefix : Prop :=
  ∀ s : State, (input s).length = s.ibufLen.toNat ∧
    ∀ i, i < s.ibufLen.toNat →
      (∀ b, Memory.read s.ibuf i = some b → (input s)[i]? = some b) ∧
      (Memory.read s.ibuf i = none → (input s)[i]? = some (Config.freeByte s.draw .ibuf i))

/-! ## The invariant -/

/-- The invariant holds at reset (R38). -/
def Obligations.InvariantAtReset : Prop := State.reset.Inv

/-- Every step keeps the invariant: canonical buffers within their capacities, the length bounds of R20, R22, R26, R28, the
options invariant of R29, the hardwired flag bits of R31 and R32, and unconstructed sets at their reset values (R24). -/
def Obligations.InvariantKeptByEveryStep : Prop := ∀ s t : State, s.Inv → step s = .next t → t.Inv

/-! ## The Ethernet unit -/

/-- R86, R76: `classify` over all 16-bit values. -/
def Obligations.ClassifyEtherTypes : Prop :=
  ∀ t : Half,
    (classify t = 1 ↔ t = 0x0800) ∧ (classify t = 2 ↔ t = 0x0806) ∧ (classify t = 3 ↔ t = 0x8035) ∧
    (classify t = 4 ↔ t = 0x809B) ∧ (classify t = 5 ↔ t = 0x80F3) ∧ (classify t = 6 ↔ t = 0x86DD) ∧
    (classify t = 7 ↔ t = 0x8819) ∧
    (classify t = 0 ↔ t ≠ 0x0800 ∧ t ≠ 0x0806 ∧ t ≠ 0x8035 ∧ t ≠ 0x809B ∧ t ≠ 0x80F3 ∧ t ≠ 0x86DD ∧ t ≠ 0x8819)

/-- R87: ETH_PARSE loads the four fields from a frame of at least 14 bytes and sets ETH.V; a shorter one raises
MalformedHeader. Nothing else changes. -/
def Obligations.EthParseLoadsFrame : Prop :=
  decode 0x00000010 = .ok .ethParse ∧ ∀ s : State,
    (14 ≤ s.ibufLen.toNat → ∃ e : EthSet,
      exec .ethParse s = .next { s with eth := e, ethV := true, status := .ok } ∧
      e.dst.toList = (input s).take 6 ∧ e.src.toList = ((input s).drop 6).take 6 ∧
      e.type = be16 (byteAt (input s) 12) (byteAt (input s) 13) ∧ e.pay = (input s).drop 14) ∧
    (s.ibufLen.toNat < 14 → exec .ethParse s = .next { s with status := .malformedHeader })

/-- R88: ETH_SERIALIZE writes `DST ‖ SRC ‖ bytes16(TYPE) ‖ PAY` (R71) to OBUF and its length to OBUF_LEN; nothing else
changes. -/
def Obligations.EthSerializeWritesFrame : Prop :=
  decode 0x00000011 = .ok .ethSerialize ∧ ∀ s : State,
    (s.ethV = true → ∃ t, exec .ethSerialize s = .next t ∧
      Emitted s t (s.eth.dst.toList ++ s.eth.src.toList
        ++ [s.eth.type.extractLsb' 8 8, s.eth.type.extractLsb' 0 8] ++ s.eth.pay)) ∧
    (s.ethV = false → exec .ethSerialize s = .next { s with status := .notConstructed })

/-- R88, its round trip: ETH_PARSE then ETH_SERIALIZE writes the frame back byte for byte. -/
def Obligations.EthParseThenSerializeReproducesFrame : Prop :=
  ∀ s : State, 14 ≤ s.ibufLen.toNat → ∃ t u, exec .ethParse s = .next t ∧ exec .ethSerialize t = .next u ∧
    Emitted t u (input s)

/-! ## The IPv4 unit -/

/-- R89: IP_NEW makes the all-zero packet, valid or not before; nothing else changes. -/
def Obligations.IpNewMakesFreshPacket : Prop :=
  decode 0x00000020 = .ok .ipNew ∧ ∀ s : State, exec .ipNew s = .next { s with
    ip := { tos := 0, id := 0, flags := 0, frag := 0, ttl := 0, proto := 0, src := #v[0, 0, 0, 0], dst := #v[0, 0, 0, 0],
            opt := [], pay := [] },
    ipV := true, status := .ok }

/-- R90, R91: the checks of IP_PARSE in order, and the fields it loads when all pass. `B` is the input, `hl` its header
length in bytes, `tl` its total length. -/
def Obligations.IpParseChecksAndLoads : Prop :=
  decode 0x00000021 = .ok .ipParse ∧ ∀ (s : State) (B : Bytes) (ver ihl tl : Nat), B = input s →
    ver = ((byteAt B 0).extractLsb' 4 4).toNat → ihl = ((byteAt B 0).extractLsb' 0 4).toNat →
    tl = (be16 (byteAt B 2) (byteAt B 3)).toNat →
    (s.ibufLen.toNat < 20 → exec .ipParse s = .next { s with status := .tooShort }) ∧
    (20 ≤ s.ibufLen.toNat → ver ≠ 4 → exec .ipParse s = .next { s with status := .unsupportedVersion }) ∧
    (20 ≤ s.ibufLen.toNat → ver = 4 → ihl < 5 → exec .ipParse s = .next { s with status := .invalidHeaderLength }) ∧
    (20 ≤ s.ibufLen.toNat → ver = 4 → 5 ≤ ihl → (tl < ihl * 4 ∨ s.ibufLen.toNat < tl) →
      exec .ipParse s = .next { s with status := .invalidTotalLength }) ∧
    (20 ≤ s.ibufLen.toNat → ver = 4 → 5 ≤ ihl → ihl * 4 ≤ tl → tl ≤ s.ibufLen.toNat →
      ck B (2 * ihl) ≠ be16 (byteAt B 10) (byteAt B 11) →
      exec .ipParse s = .next { s with status := .checksumMismatch }) ∧
    (20 ≤ s.ibufLen.toNat → ver = 4 → 5 ≤ ihl → ihl * 4 ≤ tl → tl ≤ s.ibufLen.toNat →
      ck B (2 * ihl) = be16 (byteAt B 10) (byteAt B 11) →
      ∃ p : IpSet, exec .ipParse s = .next { s with ip := p, ipV := true, status := .ok } ∧
        p.tos = byteAt B 1 ∧ p.id = be16 (byteAt B 4) (byteAt B 5) ∧
        p.flags = (byteAt B 6).extractLsb' 5 3 ∧
        p.frag = ((byteAt B 6).extractLsb' 0 5).setWidth 13 <<< 8 ||| (byteAt B 7).setWidth 13 ∧
        p.ttl = byteAt B 8 ∧ p.proto = byteAt B 9 ∧
        p.src.toList = (B.drop 12).take 4 ∧ p.dst.toList = (B.drop 16).take 4 ∧
        p.opt = (B.drop 20).take (ihl * 4 - 20) ∧ p.pay = (B.drop (ihl * 4)).take (tl - ihl * 4))

/-- R92, R72, R73: the header image byte for byte, for a packet that meets R29; the total length is cut to 16 bits. -/
def Obligations.IpImageLayout : Prop :=
  ∀ (p : IpSet) (c : Half), p.opt.length % 4 = 0 → p.opt.length ≤ 40 →
    let B := ipImage p c
    let ihl := 5 + p.opt.length / 4
    B.length = ihl * 4 ∧ ((byteAt B 0).extractLsb' 4 4).toNat = 4 ∧ ((byteAt B 0).extractLsb' 0 4).toNat = ihl ∧
    byteAt B 1 = p.tos ∧ be16 (byteAt B 2) (byteAt B 3) = BitVec.ofNat 16 (20 + p.opt.length + p.pay.length) ∧
    be16 (byteAt B 4) (byteAt B 5) = p.id ∧ (byteAt B 6).extractLsb' 5 3 = p.flags ∧
    (byteAt B 6).extractLsb' 0 5 = p.frag.extractLsb' 8 5 ∧ byteAt B 7 = p.frag.extractLsb' 0 8 ∧
    byteAt B 8 = p.ttl ∧ byteAt B 9 = p.proto ∧ be16 (byteAt B 10) (byteAt B 11) = c ∧
    (B.drop 12).take 4 = p.src.toList ∧ (B.drop 16).take 4 = p.dst.toList ∧ B.drop 20 = p.opt

/-- R93: IP_SERIALIZE writes the header image with the checksum computed over the image with a zero checksum field, then
the payload; a total length above 0xFFFF raises ValueTooLarge. Nothing else changes. -/
def Obligations.IpSerializeWritesPacket : Prop :=
  decode 0x00000022 = .ok .ipSerialize ∧ ∀ (s : State) (tl : Nat),
    tl = 20 + s.ip.opt.length + s.ip.pay.length →
    (s.ipV = true → tl ≤ 0xFFFF → ∃ t, exec .ipSerialize s = .next t ∧ t.obufLen = BitVec.ofNat 32 tl ∧
      Emitted s t (ipImage s.ip (ck (ipImage s.ip 0x0000) (2 * (5 + s.ip.opt.length / 4))) ++ s.ip.pay)) ∧
    (s.ipV = true → 0xFFFF < tl → exec .ipSerialize s = .next { s with status := .valueTooLarge }) ∧
    (s.ipV = false → exec .ipSerialize s = .next { s with status := .notConstructed })

/-- R95 to R98: the four numeric IP setters. -/
def Obligations.IpNumericSetters : Prop :=
  NumericSetter 0x00000024 .ipSetTos (fun s => s.ipV) 0xFF
    (fun s => { s with ip := { s.ip with tos := s.operand.extractLsb' 0 8 } }) ∧
  NumericSetter 0x00000025 .ipSetId (fun s => s.ipV) 0xFFFF
    (fun s => { s with ip := { s.ip with id := s.operand.extractLsb' 0 16 } }) ∧
  NumericSetter 0x00000026 .ipSetTtl (fun s => s.ipV) 0xFF
    (fun s => { s with ip := { s.ip with ttl := s.operand.extractLsb' 0 8 } }) ∧
  NumericSetter 0x00000027 .ipSetProto (fun s => s.ipV) 0xFF
    (fun s => { s with ip := { s.ip with proto := s.operand.extractLsb' 0 8 } })

/-- R99, R100: the address setters assign on success. -/
def Obligations.IpAddressSetters : Prop :=
  AddressSetter 4 0x00000028 .ipSetSrc (fun s => s.ipV) (fun a s => { s with ip := { s.ip with src := a } }) ∧
  AddressSetter 4 0x00000029 .ipSetDst (fun s => s.ipV) (fun a s => { s with ip := { s.ip with dst := a } })

/-- R101, R102: IP_SET_OPTIONS checks the new length and copies the input; IP_SET_PAYLOAD copies an input of any length. -/
def Obligations.IpByteSequenceSetters : Prop :=
  (decode 0x0000002A = .ok .ipSetOptions ∧ ∀ s : State,
    (s.ipV = true → s.ibufLen.toNat % 4 = 0 → s.ibufLen.toNat ≤ 40 →
      exec .ipSetOptions s = .next { s with ip := { s.ip with opt := input s }, status := .ok }) ∧
    (s.ipV = true → (s.ibufLen.toNat % 4 ≠ 0 ∨ 40 < s.ibufLen.toNat) →
      exec .ipSetOptions s = .next { s with status := .invalidOptionsLength }) ∧
    (s.ipV = false → exec .ipSetOptions s = .next { s with status := .notConstructed })) ∧
  decode 0x0000002B = .ok .ipSetPayload ∧ ∀ s : State,
    (s.ipV = true → exec .ipSetPayload s = .next { s with ip := { s.ip with pay := input s }, status := .ok }) ∧
    (s.ipV = false → exec .ipSetPayload s = .next { s with status := .notConstructed })

/-- R94 (a): what IP_SERIALIZE wrote, loaded into IBUF of any state, parses to the same packet. -/
def Obligations.IpSerializeThenParseRecoversPacket : Prop :=
  ∀ s t v : State, exec .ipSerialize s = .next t → t.status = .ok → s.ip.opt.length % 4 = 0 → s.ip.opt.length ≤ 40 →
    v.ibufLen = t.obufLen → (∀ i, i < t.obufLen.toNat → Memory.read v.ibuf i = Memory.read t.obuf i) →
    exec .ipParse v = .next { v with ip := s.ip, ipV := true, status := .ok }

/-- R94 (b): after a successful IP_PARSE of `B` with total length `tl`, IP_SERIALIZE writes exactly `B[0..tl)`. -/
def Obligations.IpParseThenSerializeReproducesPacket : Prop :=
  ∀ s t : State, exec .ipParse s = .next t → t.status = .ok → ∃ u, exec .ipSerialize t = .next u ∧
    Emitted t u ((input s).take (be16 (byteAt (input s) 2) (byteAt (input s) 3)).toNat)

/-! ## The checksum engine -/

/-- R104, R105, R107: the 32-bit accumulator never wraps: it is the exact sum of the words other than word 5, at most
0x1CFFE3; the folded value `f` adds its two halves once and is at most 0x1001B; CK is `~f[15:0]`, with its two extreme
values. -/
def Obligations.ChecksumIsSingleFold : Prop :=
  ∀ (h : Bytes) (n : Nat) (sum : Nat) (f : Word), 6 ≤ n → n ≤ 30 → f = foldOnce (ckSum h n) →
    sum = (((List.range n).filter fun k => k != 5).map fun k => (headerWord h k).toNat).sum →
    (ckSum h n).toNat = sum ∧ sum ≤ 0x1CFFE3 ∧
    f.toNat = sum % 0x10000 + sum / 0x10000 ∧ f.toNat ≤ 0x1001B ∧
    ck h n = ~~~ f.extractLsb' 0 16 ∧
    (ck h n = 0x0000 ↔ f.extractLsb' 0 16 = 0xFFFF) ∧ (ck h n = 0xFFFF ↔ f.extractLsb' 0 16 = 0x0000)

/-- R108: CK against the full fold: equal when the folded sum `f` fits 16 bits, and one more (modulo 2^16) when it does
not. -/
def Obligations.ChecksumVersusFullFold : Prop :=
  ∀ (h : Bytes) (n : Nat), 6 ≤ n → n ≤ 30 →
    fullFold (ckSum h n).toNat < 0x10000 ∧
    ((foldOnce (ckSum h n)).toNat ≤ 0xFFFF → ck h n = ~~~ BitVec.ofNat 16 (fullFold (ckSum h n).toNat)) ∧
    (0xFFFF < (foldOnce (ckSum h n)).toNat → ck h n = ~~~ BitVec.ofNat 16 (fullFold (ckSum h n).toNat) + 1#16)

/-- R110: CK ignores word 5, so the value in the checksum field does not matter and a generated header verifies. -/
def Obligations.ChecksumIgnoresItsOwnWord : Prop :=
  (∀ (h h' : Bytes) (n : Nat), (∀ k, k < n → k ≠ 5 → headerWord h k = headerWord h' k) → ck h n = ck h' n) ∧
  (∀ (p : IpSet) (c : Half) (n : Nat), ck (ipImage p c) n = ck (ipImage p 0x0000) n) ∧
  (∀ (p : IpSet) (n : Nat), headerWord (ipImage p (ck (ipImage p 0x0000) n)) 5 =
    ck (ipImage p (ck (ipImage p 0x0000) n)) n)

/-- R112: the order of the words other than word 5 does not matter. -/
def Obligations.ChecksumIgnoresWordOrder : Prop :=
  ∀ (h h' : Bytes) (n : Nat),
    (((List.range n).filter fun k => k != 5).map (headerWord h)).Perm
      (((List.range n).filter fun k => k != 5).map (headerWord h')) →
    ck h n = ck h' n

/-- R111: IP_CKSUM's checks in order, and that it writes CKSUM alone. -/
def Obligations.IpCksumWritesChecksum : Prop :=
  decode 0x00000023 = .ok .ipCksum ∧ ∀ (s : State) (ihl : Nat),
    ihl = ((byteAt (input s) 0).extractLsb' 0 4).toNat →
    (s.ibufLen.toNat < 20 → exec .ipCksum s = .next { s with status := .tooShort }) ∧
    (20 ≤ s.ibufLen.toNat → ihl < 5 → exec .ipCksum s = .next { s with status := .invalidHeaderLength }) ∧
    (20 ≤ s.ibufLen.toNat → 5 ≤ ihl → s.ibufLen.toNat < ihl * 4 →
      exec .ipCksum s = .next { s with status := .tooShort }) ∧
    (20 ≤ s.ibufLen.toNat → 5 ≤ ihl → ihl * 4 ≤ s.ibufLen.toNat →
      exec .ipCksum s = .next { s with cksum := ck (input s) (2 * ihl), status := .ok })

/-! ## The Prefix Information unit -/

/-- R114: PI_CREATE's checks in order, and the set it builds; RA.PI is not touched. -/
def Obligations.PiCreateBuildsOption : Prop :=
  decode 0x00000030 = .ok .piCreate ∧ ∀ s : State,
    (∀ a : Vector Byte 16, input s = a.toList → s.operand.toNat ≤ 0xFF →
      exec .piCreate s = .next { s with
        pi := { pfx := a, plen := s.operand.extractLsb' 0 8, flags := 0xC0, vlt := 2592000, plt := 604800 },
        piV := true, status := .ok }) ∧
    (s.ibufLen.toNat ≠ 16 → exec .piCreate s = .next { s with status := .addressFamilyMismatch }) ∧
    (s.ibufLen.toNat = 16 → 0xFF < s.operand.toNat → exec .piCreate s = .next { s with status := .valueTooLarge })

/-- R115, R113, R74: PI_SERIALIZE writes the 32 bytes of the selected set, bits 4:0 of the flags byte zero. -/
def Obligations.PiSerializeWritesOption : Prop :=
  decode 0x00000031 = .ok (.piSerialize .standalone) ∧ decode 0x00000131 = .ok (.piSerialize .routerAdv) ∧
  ∀ (s : State) (x : PiSel) (p : PiSet) (v : Bool),
    (x = .standalone → p = s.pi ∧ v = s.piV) → (x = .routerAdv → p = s.ra.pi ∧ v = s.raV) →
    (v = true → ∃ t, exec (.piSerialize x) s = .next t ∧ t.obufLen = 32#32 ∧
      Emitted s t ([0x03, 0x04, p.plen, p.flags.extractLsb' 5 3 ++ 0#5]
        ++ [p.vlt.extractLsb' 24 8, p.vlt.extractLsb' 16 8, p.vlt.extractLsb' 8 8, p.vlt.extractLsb' 0 8]
        ++ [p.plt.extractLsb' 24 8, p.plt.extractLsb' 16 8, p.plt.extractLsb' 8 8, p.plt.extractLsb' 0 8]
        ++ [0, 0, 0, 0] ++ p.pfx.toList)) ∧
    (v = false → exec (.piSerialize x) s = .next { s with status := .notConstructed })

/-- R116 to R118 on both sets: each flag setter writes its one bit. -/
def Obligations.PiFlagSetters : Prop :=
  FlagSetter 0x00000032 (.piSetOnlink .standalone) (fun s => s.piV) 7 (fun s => s.pi.flags)
    (fun f s => { s with pi := { s.pi with flags := f } }) ∧
  FlagSetter 0x00000132 (.piSetOnlink .routerAdv) (fun s => s.raV) 7 (fun s => s.ra.pi.flags)
    (fun f s => { s with ra := { s.ra with pi := { s.ra.pi with flags := f } } }) ∧
  FlagSetter 0x00000033 (.piSetAuto .standalone) (fun s => s.piV) 6 (fun s => s.pi.flags)
    (fun f s => { s with pi := { s.pi with flags := f } }) ∧
  FlagSetter 0x00000133 (.piSetAuto .routerAdv) (fun s => s.raV) 6 (fun s => s.ra.pi.flags)
    (fun f s => { s with ra := { s.ra with pi := { s.ra.pi with flags := f } } }) ∧
  FlagSetter 0x00000034 (.piSetRouter .standalone) (fun s => s.piV) 5 (fun s => s.pi.flags)
    (fun f s => { s with pi := { s.pi with flags := f } }) ∧
  FlagSetter 0x00000134 (.piSetRouter .routerAdv) (fun s => s.raV) 5 (fun s => s.ra.pi.flags)
    (fun f s => { s with ra := { s.ra with pi := { s.ra.pi with flags := f } } })

/-- R119, R120 on both sets: the lifetime setters take every 32-bit value. -/
def Obligations.PiLifetimeSetters : Prop :=
  WordSetter 0x00000035 (.piSetValidLt .standalone) (fun s => s.piV)
    (fun s => { s with pi := { s.pi with vlt := s.operand } }) ∧
  WordSetter 0x00000135 (.piSetValidLt .routerAdv) (fun s => s.raV)
    (fun s => { s with ra := { s.ra with pi := { s.ra.pi with vlt := s.operand } } }) ∧
  WordSetter 0x00000036 (.piSetPrefLt .standalone) (fun s => s.piV)
    (fun s => { s with pi := { s.pi with plt := s.operand } }) ∧
  WordSetter 0x00000136 (.piSetPrefLt .routerAdv) (fun s => s.raV)
    (fun s => { s with ra := { s.ra with pi := { s.ra.pi with plt := s.operand } } })

/-- R121, R122 on both sets: the prefix length (up to 255) and the prefix address. -/
def Obligations.PiPrefixSetters : Prop :=
  NumericSetter 0x00000037 (.piSetPlen .standalone) (fun s => s.piV) 0xFF
    (fun s => { s with pi := { s.pi with plen := s.operand.extractLsb' 0 8 } }) ∧
  NumericSetter 0x00000137 (.piSetPlen .routerAdv) (fun s => s.raV) 0xFF
    (fun s => { s with ra := { s.ra with pi := { s.ra.pi with plen := s.operand.extractLsb' 0 8 } } }) ∧
  AddressSetter 16 0x00000038 (.piSetPrefix .standalone) (fun s => s.piV)
    (fun a s => { s with pi := { s.pi with pfx := a } }) ∧
  AddressSetter 16 0x00000138 (.piSetPrefix .routerAdv) (fun s => s.raV)
    (fun a s => { s with ra := { s.ra with pi := { s.ra.pi with pfx := a } } })

/-! ## The Router Advertisement unit -/

/-- R124: RA_CREATE builds the RA set and its PI set with prefix length 64; OPERAND and the standalone PI set play no
part. -/
def Obligations.RaCreateBuildsMessage : Prop :=
  decode 0x00000040 = .ok .raCreate ∧ ∀ s : State,
    (∀ a : Vector Byte 16, input s = a.toList →
      exec .raCreate s = .next { s with
        ra := { chl := 64, flags := 0x00, deflt := 0, reach := 0, retrans := 0,
                pi := { pfx := a, plen := 64, flags := 0xC0, vlt := 2592000, plt := 604800 } },
        raV := true, status := .ok }) ∧
    (s.ibufLen.toNat ≠ 16 → exec .raCreate s = .next { s with status := .addressFamilyMismatch })

/-- R125, R123, R75: RA_SERIALIZE writes 48 bytes; the checksum bytes and the low flag bits are zero. -/
def Obligations.RaSerializeWritesMessage : Prop :=
  decode 0x00000041 = .ok .raSerialize ∧ ∀ s : State,
    (s.raV = true → ∃ t, exec .raSerialize s = .next t ∧ t.obufLen = 48#32 ∧
      Emitted s t ([Config.raIcmpType, 0x00, 0x00, 0x00, s.ra.chl, s.ra.flags.extractLsb' 5 3 ++ 0#5]
        ++ [s.ra.deflt.extractLsb' 8 8, s.ra.deflt.extractLsb' 0 8]
        ++ [s.ra.reach.extractLsb' 24 8, s.ra.reach.extractLsb' 16 8, s.ra.reach.extractLsb' 8 8,
            s.ra.reach.extractLsb' 0 8]
        ++ [s.ra.retrans.extractLsb' 24 8, s.ra.retrans.extractLsb' 16 8, s.ra.retrans.extractLsb' 8 8,
            s.ra.retrans.extractLsb' 0 8]
        ++ piBytes s.ra.pi)) ∧
    (s.raV = false → exec .raSerialize s = .next { s with status := .notConstructed })

/-- R125 and R115: bytes 16 to 47 of RA_SERIALIZE's output are the 32 bytes PI_SERIALIZE.RA writes, and OBUF bytes past the
shorter output keep the longer one's (R59, R153). -/
def Obligations.RaOutputEmbedsPrefixOption : Prop :=
  ∀ s : State, s.raV = true → ∃ t u, exec .raSerialize s = .next t ∧ exec (.piSerialize .routerAdv) t = .next u ∧
    (∀ i, i < 32 → Memory.read u.obuf i = Memory.read t.obuf (16 + i)) ∧
    (∀ i, 32 ≤ i → Memory.read u.obuf i = Memory.read t.obuf i) ∧ u.obufLen = 32#32

/-- R127 to R129: each RA flag setter writes its one bit. -/
def Obligations.RaFlagSetters : Prop :=
  FlagSetter 0x00000043 .raSetManaged (fun s => s.raV) 7 (fun s => s.ra.flags)
    (fun f s => { s with ra := { s.ra with flags := f } }) ∧
  FlagSetter 0x00000044 .raSetOther (fun s => s.raV) 6 (fun s => s.ra.flags)
    (fun f s => { s with ra := { s.ra with flags := f } }) ∧
  FlagSetter 0x00000045 .raSetHomeagent (fun s => s.raV) 5 (fun s => s.ra.flags)
    (fun f s => { s with ra := { s.ra with flags := f } })

/-- R126, R130 to R132: the numeric RA setters. -/
def Obligations.RaNumericSetters : Prop :=
  NumericSetter 0x00000042 .raSetChl (fun s => s.raV) 0xFF
    (fun s => { s with ra := { s.ra with chl := s.operand.extractLsb' 0 8 } }) ∧
  NumericSetter 0x00000046 .raSetDeflt (fun s => s.raV) 0xFFFF
    (fun s => { s with ra := { s.ra with deflt := s.operand.extractLsb' 0 16 } }) ∧
  WordSetter 0x00000047 .raSetReach (fun s => s.raV) (fun s => { s with ra := { s.ra with reach := s.operand } }) ∧
  WordSetter 0x00000048 .raSetRetrans (fun s => s.raV) (fun s => { s with ra := { s.ra with retrans := s.operand } })

/-! ## The host port -/

/-- R34, R36: what a 32-bit read of each register delivers to the host, whatever the valid bits say; the read changes
nothing else. A field narrower than 32 bits reads zero-extended; bits 4:0 of
the flag registers read 0. -/
def Obligations.RegisterMapReads : Prop :=
  ∀ s : State,
    Delivers (.r32 0x000) s (s.status.code.setWidth 32) ∧ Delivers (.r32 0x004) s s.cmd ∧
    Delivers (.r32 0x008) s s.operand ∧ Delivers (.r32 0x00C) s s.ibufLen ∧ Delivers (.r32 0x010) s s.obufLen ∧
    Delivers (.r32 0x014) s (((BitVec.ofBool s.raV ++ BitVec.ofBool s.piV) ++
      (BitVec.ofBool s.ipV ++ BitVec.ofBool s.ethV)).setWidth 32) ∧
    Delivers (.r32 0x018) s (s.cksum.setWidth 32) ∧ Delivers (.r32 0x01C) s (BitVec.ofNat 32 Config.bufMax) ∧
    Delivers (.r32 0x050) s (s.eth.type.setWidth 32) ∧ Delivers (.r32 0x054) s ((classify s.eth.type).setWidth 32) ∧
    Delivers (.r32 0x058) s (BitVec.ofNat 32 s.eth.pay.length) ∧
    Delivers (.r32 0x080) s (s.ip.tos.setWidth 32) ∧ Delivers (.r32 0x084) s (s.ip.id.setWidth 32) ∧
    Delivers (.r32 0x088) s (s.ip.flags.setWidth 32) ∧ Delivers (.r32 0x08C) s (s.ip.frag.setWidth 32) ∧
    Delivers (.r32 0x090) s (s.ip.ttl.setWidth 32) ∧ Delivers (.r32 0x094) s (s.ip.proto.setWidth 32) ∧
    (s.ip.opt.length ≤ 40 → Delivers (.r32 0x0A0) s (BitVec.ofNat 32 s.ip.opt.length) ∧
      Delivers (.r32 0x0A8) s (BitVec.ofNat 32 (5 + s.ip.opt.length / 4))) ∧
    Delivers (.r32 0x0A4) s (BitVec.ofNat 32 s.ip.pay.length) ∧
    Delivers (.r32 0x0AC) s (BitVec.ofNat 32 (20 + s.ip.opt.length + s.ip.pay.length)) ∧
    Delivers (.r32 0x110) s (s.pi.plen.setWidth 32) ∧ Delivers (.r32 0x114) s ((s.pi.flags &&& 0xE0#8).setWidth 32) ∧
    Delivers (.r32 0x118) s s.pi.vlt ∧ Delivers (.r32 0x11C) s s.pi.plt ∧
    Delivers (.r32 0x150) s (s.ra.pi.plen.setWidth 32) ∧ Delivers (.r32 0x154) s ((s.ra.pi.flags &&& 0xE0#8).setWidth 32) ∧
    Delivers (.r32 0x158) s s.ra.pi.vlt ∧ Delivers (.r32 0x15C) s s.ra.pi.plt ∧
    Delivers (.r32 0x180) s (s.ra.chl.setWidth 32) ∧ Delivers (.r32 0x184) s ((s.ra.flags &&& 0xE0#8).setWidth 32) ∧
    Delivers (.r32 0x188) s (s.ra.deflt.setWidth 32) ∧ Delivers (.r32 0x18C) s s.ra.reach ∧
    Delivers (.r32 0x190) s s.ra.retrans

/-- R35: the registers that show address and MAC bytes pack them big-endian: the four bytes of the word a 32-bit read
delivers, most significant first, are the field's bytes in order. -/
def Obligations.AddressRegistersAreBigEndian : Prop :=
  ∀ s : State, ∃ dstHi dstLo srcHi srcLo ipSrc ipDst : Word,
    (Delivers (.r32 0x040) s dstHi ∧ bytes32 dstHi = 0 :: 0 :: s.eth.dst.toList.take 2) ∧
    (Delivers (.r32 0x044) s dstLo ∧ bytes32 dstLo = s.eth.dst.toList.drop 2) ∧
    (Delivers (.r32 0x048) s srcHi ∧ bytes32 srcHi = 0 :: 0 :: s.eth.src.toList.take 2) ∧
    (Delivers (.r32 0x04C) s srcLo ∧ bytes32 srcLo = s.eth.src.toList.drop 2) ∧
    (Delivers (.r32 0x098) s ipSrc ∧ bytes32 ipSrc = s.ip.src.toList) ∧
    (Delivers (.r32 0x09C) s ipDst ∧ bytes32 ipDst = s.ip.dst.toList) ∧
    ∀ k : Nat, k < 4 → ∃ pi rapi : Word,
      (Delivers (.r32 (BitVec.ofNat 32 (0x100 + 4 * k))) s pi ∧
        bytes32 pi = (s.pi.pfx.toList.drop (4 * k)).take 4) ∧
      (Delivers (.r32 (BitVec.ofNat 32 (0x140 + 4 * k))) s rapi ∧
        bytes32 rapi = (s.ra.pi.pfx.toList.drop (4 * k)).take 4)

/-- R37, R18, R20: OPERAND takes every 32-bit write, IBUF_LEN a value up to `BUF_MAX`, and a write of either width at any
other offset of the register region but CMD's has no effect. -/
def Obligations.OnlyThreeRegistersAreWritable : Prop :=
  ∀ (s : State) (a v : Word),
    (a = 0x008#32 → hostStep (.w32 a v) s = .next { s with operand := v }) ∧
    (a = 0x00C#32 → v.toNat ≤ Config.bufMax → hostStep (.w32 a v) s = .next { s with ibufLen := v }) ∧
    (a = 0x00C#32 → Config.bufMax < v.toNat → hostStep (.w32 a v) s = .next s) ∧
    (a.toNat < 0x01000000 → a ≠ 0x004#32 → a ≠ 0x008#32 → a ≠ 0x00C#32 →
      hostStep (.w32 a v) s = .next s ∧ hostStep (.w8 a v) s = .next s)

/-- R42, R46: a read at a misaligned register offset, at an offset outside the register map, or in a region from 0x06 on
returns 0; a write there has no effect. It holds at both access widths. -/
def Obligations.MisalignedAndUnmappedAccesses : Prop :=
  ∀ (s : State) (a v : Word),
    (a.toNat < 0x01000000 ∧ (a.toNat % 4 ≠ 0 ∨ 0x190 < a.toNat ∨ (0x01C < a.toNat ∧ a.toNat < 0x040) ∨
        (0x058 < a.toNat ∧ a.toNat < 0x080) ∨ (0x0AC < a.toNat ∧ a.toNat < 0x100) ∨
        (0x11C < a.toNat ∧ a.toNat < 0x140) ∨ (0x15C < a.toNat ∧ a.toNat < 0x180)) ∨
      0x06000000 ≤ a.toNat) →
    Delivers (.r32 a) s 0 ∧ Delivers (.r8 a) s 0 ∧
    hostStep (.w32 a v) s = .next s ∧ hostStep (.w8 a v) s = .next s

/-- R44, R43: a byte write to IBUF cell `i < BUF_MAX` stores bits 7:0 of the data and changes no other cell and nothing else.
A write of either width past the capacity, or to regions 0x02 to 0x05, has no effect. -/
def Obligations.ByteWritesReachOnlyIbuf : Prop :=
  ∀ (s : State) (a v : Word) (i : Nat), i < 0x1000000 →
    (a.toNat = 0x01000000 + i → i < Config.bufMax → ∃ t, hostStep (.w8 a v) s = .next t ∧
      Memory.read t.ibuf i = some (v.extractLsb' 0 8) ∧
      (∀ j, j ≠ i → Memory.read t.ibuf j = Memory.read s.ibuf j) ∧ t = { s with ibuf := t.ibuf }) ∧
    (a.toNat = 0x01000000 + i → Config.bufMax ≤ i → hostStep (.w8 a v) s = .next s ∧ hostStep (.w32 a v) s = .next s) ∧
    (0x02000000 ≤ a.toNat → a.toNat < 0x06000000 →
      hostStep (.w8 a v) s = .next s ∧ hostStep (.w32 a v) s = .next s)

/-- R45, R43: what a byte read delivers in each byte region, and that it changes nothing else. For an unwritten buffer cell
R45 says only 'unspecified'; that the byte is the free byte of the draw is the model's choice (log entries 3 and 4), and
nothing is known of it. -/
def Obligations.ByteReadsFollowR45 : Prop :=
  ∀ (s : State) (a : Word) (i : Nat), i < 0x1000000 →
    (a.toNat = 0x01000000 + i → Delivers (.r8 a) s
      ((if i < Config.bufMax then (Memory.read s.ibuf i).getD (Config.freeByte s.draw .ibuf i) else 0#8).setWidth 32)) ∧
    (a.toNat = 0x02000000 + i → Delivers (.r8 a) s
      ((if i < Config.obufMax then (Memory.read s.obuf i).getD (Config.freeByte s.draw .obuf i) else 0#8).setWidth 32)) ∧
    (a.toNat = 0x03000000 + i → Delivers (.r8 a) s (((s.eth.pay[i]?).getD 0).setWidth 32)) ∧
    (a.toNat = 0x04000000 + i → Delivers (.r8 a) s (((s.ip.opt[i]?).getD 0).setWidth 32)) ∧
    (a.toNat = 0x05000000 + i → Delivers (.r8 a) s (((s.ip.pay[i]?).getD 0).setWidth 32))

/-- R52, R42, R43, R45, R70: a 32-bit read and a byte read deliver their value, READOUT delivers OBUF_LEN and then the bytes
of `OBUF[0..OBUF_LEN)` in order, and none of them changes anything but the read data the host has received: the script and
the line stay too. The premise on OBUF_LEN is R13's bound, which the invariant keeps. The read data, newest first, is the
model's own field (log entry 5), one READOUT is one step (log entry 9), and the byte of an unwritten cell is the free byte of
the draw (log entries 3 and 4): these are the model's choices. What `read32` and `read8` give is RegisterMapReads,
AddressRegistersAreBigEndian, MisalignedAndUnmappedAccesses and ByteReadsFollowR45. -/
def Obligations.ReadsHaveNoSideEffect : Prop :=
  ∀ s : State, (∀ a : Word, Delivers (.r32 a) s (read32 s a) ∧ Delivers (.r8 a) s (read8 s a)) ∧
    (s.obufLen.toNat ≤ Config.obufMax →
      hostStep .readout s = .next { s with host := { s.host with reads :=
        ((List.range s.obufLen.toNat).map fun i =>
          ((Memory.read s.obuf i).getD (Config.freeByte s.draw .obuf i)).setWidth 32).reverse
          ++ s.obufLen :: s.host.reads } })
end

