-- ==== Sys2Proof/Laws/Decode.lean ====
section
/-! SUPPORT. Laws/Decode.lean: the fields of an encoded word, and what a decoded word's fields are. -/

namespace Sys2Proof

/-- The reserved bits of an encoded word are zero (R62). -/
@[simp] theorem encode_rsv (i : Instr) : (encode i).extractLsb' 9 23 = 0#23 := by
  cases i <;> first | rfl | (rename_i x; cases x <;> rfl)

/-- The opcode field of an encoded word (R60). -/
@[simp] theorem encode_opcode (i : Instr) : (encode i).extractLsb' 0 8 = i.opcode := by
  cases i <;> first | rfl | (rename_i x; cases x <;> rfl)

/-- The `sel` bit of an encoded word (R60). -/
@[simp] theorem encode_sel (i : Instr) : (encode i).getLsbD 8 = (i.selBit == 1#1) := by
  cases i <;> first | rfl | (rename_i x; cases x <;> rfl)

/-- A word is its three fields (R60). -/
theorem word_fields (w : Word) : w = w.extractLsb' 9 23 ++ (w.extractLsb' 8 1 ++ w.extractLsb' 0 8) := by
  apply BitVec.eq_of_getLsbD_eq
  intro i hi
  rw [BitVec.getLsbD_append, BitVec.getLsbD_append]
  split
  · split
    · simp [*]
    · have h : i = 8 := by omega
      subst h
      simp
  · simp [show i - (1 + 8) < 23 by omega, show 9 + (i - (1 + 8)) = i by omega]

/-- What a decoded word's fields are: no reserved bit, and a row of the opcode map that gives the command (R65, R78). -/
theorem decode_ok {w : Word} {i : Instr} (h : decode w = .ok i) :
    w.extractLsb' 9 23 = 0#23 ∧
      ((opcodeMap.lookup (w.extractLsb' 0 8) = some (.plain i) ∧ w.getLsbD 8 = false) ∨
        ∃ mk, opcodeMap.lookup (w.extractLsb' 0 8) = some (.selectable mk) ∧ i = mk (selOfBit (w.getLsbD 8))) := by
  unfold decode at h
  split at h
  · cases h
  · rename_i h0
    refine ⟨not_not.mp h0, ?_⟩
    split at h
    · cases h
    · rename_i hl
      split at h
      · cases h
      · rename_i hb
        cases h
        exact .inl ⟨hl, by simpa using hb⟩
    · rename_i hl
      cases h
      exact .inr ⟨_, hl, rfl⟩

end Sys2Proof
end

