-- ==== Sys2Proof/Laws/Memory.lean ====
section
/-! SUPPORT. Laws/Memory.lean: the laws of the byte buffers. The buffers of the reset state are canonical. A read after a write gives the byte written, a write leaves
every other cell alone, and every write keeps the canonical form. -/

namespace Sys2Proof.Machine

@[simp] theorem Memory.read_nil (i : Nat) : Memory.read [] i = none := rfl

theorem Memory.read_cons (k : Nat) (b : Byte) (m : Memory) (i : Nat) :
    Memory.read ((k, b) :: m) i = if k = i then some b else Memory.read m i := rfl

theorem Memory.write_cons (k : Nat) (c : Byte) (m : Memory) (i : Nat) (b : Byte) :
    Memory.write ((k, c) :: m) i b =
      if i < k then (i, b) :: (k, c) :: m else if i = k then (i, b) :: m else (k, c) :: Memory.write m i b := rfl

/-- A read of a cell just written gives the byte written. -/
theorem Memory.read_write_same (m : Memory) (i : Nat) (b : Byte) : Memory.read (Memory.write m i b) i = some b := by
  induction m with
  | nil => simp [Memory.write, Memory.read]
  | cons kc m ih =>
    obtain ⟨k, c⟩ := kc
    rw [Memory.write_cons]
    split
    · simp [Memory.read_cons]
    · split
      · simp [Memory.read_cons]
      · rename_i hne
        rw [Memory.read_cons, if_neg (Ne.symm hne), ih]

/-- A write leaves every other cell alone. -/
theorem Memory.read_write_other (m : Memory) {i j : Nat} (b : Byte) (h : j ≠ i) :
    Memory.read (Memory.write m i b) j = Memory.read m j := by
  induction m with
  | nil => simp [Memory.write, Memory.read, Ne.symm h]
  | cons kc m ih =>
    obtain ⟨k, c⟩ := kc
    rw [Memory.write_cons]
    split
    · rw [Memory.read_cons, if_neg (Ne.symm h)]
    · split
      · rename_i hik
        subst hik
        simp [Memory.read_cons, Ne.symm h]
      · simp [Memory.read_cons, ih]

/-- The cells after a write are the cell written and cells that were there. -/
theorem Memory.mem_write {m : Memory} {i : Nat} {b : Byte} {c : Host.Cell} (h : c ∈ Memory.write m i b) :
    c = (i, b) ∨ c ∈ m := by
  induction m with
  | nil => simpa [Memory.write] using h
  | cons kc m ih =>
    obtain ⟨k, d⟩ := kc
    rw [Memory.write_cons] at h
    split at h
    · simpa using h
    · split at h
      · rcases List.mem_cons.mp h with h | h
        · exact .inl h
        · exact .inr (List.mem_cons_of_mem _ h)
      · rcases List.mem_cons.mp h with h | h
        · exact .inr (h ▸ List.mem_cons_self)
        · exact (ih h).imp id (List.mem_cons_of_mem _)

/-- A write keeps the canonical form. -/
theorem Memory.wf_write {m : Memory} (h : Memory.wf m) (i : Nat) (b : Byte) : Memory.wf (Memory.write m i b) := by
  induction m with
  | nil => simp [Memory.write]
  | cons kc m ih =>
    obtain ⟨k, c⟩ := kc
    obtain ⟨hk, hm⟩ := List.pairwise_cons.mp h
    rw [Memory.write_cons]
    split
    · rename_i hik
      refine List.pairwise_cons.mpr ⟨fun x hx => ?_, h⟩
      rcases List.mem_cons.mp hx with rfl | hx
      · exact hik
      · exact lt_trans hik (hk x hx)
    · split
      · rename_i hik
        subst hik
        exact List.pairwise_cons.mpr ⟨hk, hm⟩
      · rename_i h1 h2
        refine List.pairwise_cons.mpr ⟨fun x hx => ?_, ih hm⟩
        rcases Memory.mem_write hx with rfl | hx
        · exact lt_of_le_of_ne (not_lt.mp h1) (Ne.symm h2)
        · exact hk x hx

/-- Writing a byte sequence keeps the canonical form. -/
theorem Memory.wf_writeBytes {m : Memory} (h : Memory.wf m) (i : Nat) (bs : Bytes) :
    Memory.wf (Memory.writeBytes m i bs) := by
  induction bs generalizing m i with
  | nil => exact h
  | cons b bs ih => exact ih (Memory.wf_write h i b) (i + 1)

/-- Writing a byte sequence leaves the cells before it alone. -/
theorem Memory.read_writeBytes_before (m : Memory) (i : Nat) (bs : Bytes) {j : Nat} (h : j < i) :
    Memory.read (Memory.writeBytes m i bs) j = Memory.read m j := by
  induction bs generalizing m i with
  | nil => rfl
  | cons b bs ih =>
    rw [Memory.writeBytes, ih _ (i + 1) (by omega), Memory.read_write_other _ _ (by omega)]

/-- After writing a byte sequence from cell `i` on, cell `i + k` holds its byte `k`, and where the sequence has no byte
`k` the cell is as before. -/
theorem Memory.read_writeBytes (m : Memory) (i : Nat) (bs : Bytes) (k : Nat) :
    Memory.read (Memory.writeBytes m i bs) (i + k) = (bs[k]?).or (Memory.read m (i + k)) := by
  induction bs generalizing m i k with
  | nil => simp [Memory.writeBytes]
  | cons b bs ih =>
    rw [Memory.writeBytes]
    cases k with
    | zero =>
      rw [Memory.read_writeBytes_before _ _ _ (by omega), Nat.add_zero, Memory.read_write_same]
      rfl
    | succ k =>
      rw [show i + (k + 1) = (i + 1) + k by omega, ih, Memory.read_write_other _ _ (by omega)]
      rfl

/-- The cells after writing a byte sequence are its cells and cells that were there. -/
theorem Memory.mem_writeBytes {m : Memory} {i : Nat} {bs : Bytes} {c : Host.Cell}
    (h : c ∈ Memory.writeBytes m i bs) : c.1 < i + bs.length ∨ c ∈ m := by
  induction bs generalizing m i with
  | nil => exact .inr h
  | cons b bs ih =>
    rw [Memory.writeBytes] at h
    rcases ih h with h | h
    · left
      simpa [Nat.add_assoc, Nat.add_comm 1] using h
    · rcases Memory.mem_write h with rfl | h
      · left
        simp
      · exact .inr h

/-- Writing a list of cells keeps the canonical form. -/
theorem Memory.wf_writeCells {m : Memory} (h : Memory.wf m) (cap : Nat) (cells : List Host.Cell) :
    Memory.wf (Memory.writeCells cap m cells) := by
  induction cells generalizing m with
  | nil => exact h
  | cons c cells ih =>
    rw [Memory.writeCells]
    split
    · exact ih (Memory.wf_write h _ _)
    · exact ih h

/-- The cells after writing a list of cells are below the capacity or were there. -/
theorem Memory.mem_writeCells {cap : Nat} {m : Memory} {cells : List Host.Cell} {c : Host.Cell}
    (h : c ∈ Memory.writeCells cap m cells) : c.1 < cap ∨ c ∈ m := by
  induction cells generalizing m with
  | nil => exact .inr h
  | cons d cells ih =>
    rw [Memory.writeCells] at h
    rcases ih h with h | h
    · exact .inl h
    · split at h
      · rename_i hd
        rcases Memory.mem_write h with rfl | h
        · exact .inl hd
        · exact .inr h
      · exact .inr h

/-- Writing a list of cells leaves what lies at or past the capacity alone. -/
theorem Memory.read_writeCells_atLeast (cap : Nat) (m : Memory) (cells : List Host.Cell) {j : Nat} (h : cap ≤ j) :
    Memory.read (Memory.writeCells cap m cells) j = Memory.read m j := by
  induction cells generalizing m with
  | nil => rfl
  | cons c cells ih =>
    rw [Memory.writeCells, ih]
    split
    · exact Memory.read_write_other _ _ (by omega)
    · rfl

/-- One cell below the capacity, written as a list of one. -/
theorem Memory.writeCells_one (m : Memory) {cap i : Nat} (b : Byte) (h : i < cap) :
    Memory.writeCells cap m [(i, b)] = Memory.write m i b := by simp [Memory.writeCells, h]

/-- The buffers are in canonical form at reset. -/
theorem State.reset_buffers_wf : Memory.wf State.reset.ibuf ∧ Memory.wf State.reset.obuf :=
  ⟨List.Pairwise.nil, List.Pairwise.nil⟩

end Sys2Proof.Machine
end

