-- ==== Sys2Proof/Laws/State.lean ====
section
/-! SUPPORT. Laws/State.lean: what each named update of the state does to each field, one lemma per field per update. -/

namespace Sys2Proof.Machine

variable (s : State)

/-! ## STATUS -/

@[simp] theorem State.setStatus_status (c : Status) : (s.setStatus c).status = c := rfl
@[simp] theorem State.setStatus_cmd (c : Status) : (s.setStatus c).cmd = s.cmd := rfl
@[simp] theorem State.setStatus_operand (c : Status) : (s.setStatus c).operand = s.operand := rfl
@[simp] theorem State.setStatus_ibuf (c : Status) : (s.setStatus c).ibuf = s.ibuf := rfl
@[simp] theorem State.setStatus_ibufLen (c : Status) : (s.setStatus c).ibufLen = s.ibufLen := rfl
@[simp] theorem State.setStatus_obuf (c : Status) : (s.setStatus c).obuf = s.obuf := rfl
@[simp] theorem State.setStatus_obufLen (c : Status) : (s.setStatus c).obufLen = s.obufLen := rfl
@[simp] theorem State.setStatus_cksum (c : Status) : (s.setStatus c).cksum = s.cksum := rfl
@[simp] theorem State.setStatus_ethV (c : Status) : (s.setStatus c).ethV = s.ethV := rfl
@[simp] theorem State.setStatus_ipV (c : Status) : (s.setStatus c).ipV = s.ipV := rfl
@[simp] theorem State.setStatus_piV (c : Status) : (s.setStatus c).piV = s.piV := rfl
@[simp] theorem State.setStatus_raV (c : Status) : (s.setStatus c).raV = s.raV := rfl
@[simp] theorem State.setStatus_eth (c : Status) : (s.setStatus c).eth = s.eth := rfl
@[simp] theorem State.setStatus_ip (c : Status) : (s.setStatus c).ip = s.ip := rfl
@[simp] theorem State.setStatus_pi (c : Status) : (s.setStatus c).pi = s.pi := rfl
@[simp] theorem State.setStatus_ra (c : Status) : (s.setStatus c).ra = s.ra := rfl
@[simp] theorem State.setStatus_host (c : Status) : (s.setStatus c).host = s.host := rfl
@[simp] theorem State.setStatus_draw (c : Status) : (s.setStatus c).draw = s.draw := rfl

/-! ## The output of a serialize command -/

@[simp] theorem State.emit_status (o : Bytes) : (s.emit o).status = s.status := rfl
@[simp] theorem State.emit_cmd (o : Bytes) : (s.emit o).cmd = s.cmd := rfl
@[simp] theorem State.emit_operand (o : Bytes) : (s.emit o).operand = s.operand := rfl
@[simp] theorem State.emit_ibuf (o : Bytes) : (s.emit o).ibuf = s.ibuf := rfl
@[simp] theorem State.emit_ibufLen (o : Bytes) : (s.emit o).ibufLen = s.ibufLen := rfl
@[simp] theorem State.emit_obuf (o : Bytes) : (s.emit o).obuf = Memory.writeBytes s.obuf 0 o := rfl
@[simp] theorem State.emit_obufLen (o : Bytes) : (s.emit o).obufLen = BitVec.ofNat 32 o.length := rfl
@[simp] theorem State.emit_cksum (o : Bytes) : (s.emit o).cksum = s.cksum := rfl
@[simp] theorem State.emit_ethV (o : Bytes) : (s.emit o).ethV = s.ethV := rfl
@[simp] theorem State.emit_ipV (o : Bytes) : (s.emit o).ipV = s.ipV := rfl
@[simp] theorem State.emit_piV (o : Bytes) : (s.emit o).piV = s.piV := rfl
@[simp] theorem State.emit_raV (o : Bytes) : (s.emit o).raV = s.raV := rfl
@[simp] theorem State.emit_eth (o : Bytes) : (s.emit o).eth = s.eth := rfl
@[simp] theorem State.emit_ip (o : Bytes) : (s.emit o).ip = s.ip := rfl
@[simp] theorem State.emit_pi (o : Bytes) : (s.emit o).pi = s.pi := rfl
@[simp] theorem State.emit_ra (o : Bytes) : (s.emit o).ra = s.ra := rfl
@[simp] theorem State.emit_host (o : Bytes) : (s.emit o).host = s.host := rfl
@[simp] theorem State.emit_draw (o : Bytes) : (s.emit o).draw = s.draw := rfl

/-! ## The IP set -/

@[simp] theorem State.setIp_status (p : IpSet) : (s.setIp p).status = s.status := rfl
@[simp] theorem State.setIp_cmd (p : IpSet) : (s.setIp p).cmd = s.cmd := rfl
@[simp] theorem State.setIp_operand (p : IpSet) : (s.setIp p).operand = s.operand := rfl
@[simp] theorem State.setIp_ibuf (p : IpSet) : (s.setIp p).ibuf = s.ibuf := rfl
@[simp] theorem State.setIp_ibufLen (p : IpSet) : (s.setIp p).ibufLen = s.ibufLen := rfl
@[simp] theorem State.setIp_obuf (p : IpSet) : (s.setIp p).obuf = s.obuf := rfl
@[simp] theorem State.setIp_obufLen (p : IpSet) : (s.setIp p).obufLen = s.obufLen := rfl
@[simp] theorem State.setIp_cksum (p : IpSet) : (s.setIp p).cksum = s.cksum := rfl
@[simp] theorem State.setIp_ethV (p : IpSet) : (s.setIp p).ethV = s.ethV := rfl
@[simp] theorem State.setIp_ipV (p : IpSet) : (s.setIp p).ipV = s.ipV := rfl
@[simp] theorem State.setIp_piV (p : IpSet) : (s.setIp p).piV = s.piV := rfl
@[simp] theorem State.setIp_raV (p : IpSet) : (s.setIp p).raV = s.raV := rfl
@[simp] theorem State.setIp_eth (p : IpSet) : (s.setIp p).eth = s.eth := rfl
@[simp] theorem State.setIp_ip (p : IpSet) : (s.setIp p).ip = p := rfl
@[simp] theorem State.setIp_pi (p : IpSet) : (s.setIp p).pi = s.pi := rfl
@[simp] theorem State.setIp_ra (p : IpSet) : (s.setIp p).ra = s.ra := rfl
@[simp] theorem State.setIp_host (p : IpSet) : (s.setIp p).host = s.host := rfl
@[simp] theorem State.setIp_draw (p : IpSet) : (s.setIp p).draw = s.draw := rfl

/-! ## The RA set -/

@[simp] theorem State.setRa_status (r : RaSet) : (s.setRa r).status = s.status := rfl
@[simp] theorem State.setRa_cmd (r : RaSet) : (s.setRa r).cmd = s.cmd := rfl
@[simp] theorem State.setRa_operand (r : RaSet) : (s.setRa r).operand = s.operand := rfl
@[simp] theorem State.setRa_ibuf (r : RaSet) : (s.setRa r).ibuf = s.ibuf := rfl
@[simp] theorem State.setRa_ibufLen (r : RaSet) : (s.setRa r).ibufLen = s.ibufLen := rfl
@[simp] theorem State.setRa_obuf (r : RaSet) : (s.setRa r).obuf = s.obuf := rfl
@[simp] theorem State.setRa_obufLen (r : RaSet) : (s.setRa r).obufLen = s.obufLen := rfl
@[simp] theorem State.setRa_cksum (r : RaSet) : (s.setRa r).cksum = s.cksum := rfl
@[simp] theorem State.setRa_ethV (r : RaSet) : (s.setRa r).ethV = s.ethV := rfl
@[simp] theorem State.setRa_ipV (r : RaSet) : (s.setRa r).ipV = s.ipV := rfl
@[simp] theorem State.setRa_piV (r : RaSet) : (s.setRa r).piV = s.piV := rfl
@[simp] theorem State.setRa_raV (r : RaSet) : (s.setRa r).raV = s.raV := rfl
@[simp] theorem State.setRa_eth (r : RaSet) : (s.setRa r).eth = s.eth := rfl
@[simp] theorem State.setRa_ip (r : RaSet) : (s.setRa r).ip = s.ip := rfl
@[simp] theorem State.setRa_pi (r : RaSet) : (s.setRa r).pi = s.pi := rfl
@[simp] theorem State.setRa_ra (r : RaSet) : (s.setRa r).ra = r := rfl
@[simp] theorem State.setRa_host (r : RaSet) : (s.setRa r).host = s.host := rfl
@[simp] theorem State.setRa_draw (r : RaSet) : (s.setRa r).draw = s.draw := rfl

/-! ## The start of a step -/

@[simp] theorem State.advance_status : (s.advance).status = s.status := rfl
@[simp] theorem State.advance_cmd : (s.advance).cmd = s.cmd := rfl
@[simp] theorem State.advance_operand : (s.advance).operand = s.operand := rfl
@[simp] theorem State.advance_ibuf : (s.advance).ibuf = s.ibuf := rfl
@[simp] theorem State.advance_ibufLen : (s.advance).ibufLen = s.ibufLen := rfl
@[simp] theorem State.advance_obuf : (s.advance).obuf = s.obuf := rfl
@[simp] theorem State.advance_obufLen : (s.advance).obufLen = s.obufLen := rfl
@[simp] theorem State.advance_cksum : (s.advance).cksum = s.cksum := rfl
@[simp] theorem State.advance_ethV : (s.advance).ethV = s.ethV := rfl
@[simp] theorem State.advance_ipV : (s.advance).ipV = s.ipV := rfl
@[simp] theorem State.advance_piV : (s.advance).piV = s.piV := rfl
@[simp] theorem State.advance_raV : (s.advance).raV = s.raV := rfl
@[simp] theorem State.advance_eth : (s.advance).eth = s.eth := rfl
@[simp] theorem State.advance_ip : (s.advance).ip = s.ip := rfl
@[simp] theorem State.advance_pi : (s.advance).pi = s.pi := rfl
@[simp] theorem State.advance_ra : (s.advance).ra = s.ra := rfl
@[simp] theorem State.advance_host : (s.advance).host = { s.host with line := s.host.line + 1 } := rfl
@[simp] theorem State.advance_draw : (s.advance).draw = s.draw + 1 := rfl

/-! ## A host read -/

@[simp] theorem State.logRead_status (v : Word) : (s.logRead v).status = s.status := rfl
@[simp] theorem State.logRead_cmd (v : Word) : (s.logRead v).cmd = s.cmd := rfl
@[simp] theorem State.logRead_operand (v : Word) : (s.logRead v).operand = s.operand := rfl
@[simp] theorem State.logRead_ibuf (v : Word) : (s.logRead v).ibuf = s.ibuf := rfl
@[simp] theorem State.logRead_ibufLen (v : Word) : (s.logRead v).ibufLen = s.ibufLen := rfl
@[simp] theorem State.logRead_obuf (v : Word) : (s.logRead v).obuf = s.obuf := rfl
@[simp] theorem State.logRead_obufLen (v : Word) : (s.logRead v).obufLen = s.obufLen := rfl
@[simp] theorem State.logRead_cksum (v : Word) : (s.logRead v).cksum = s.cksum := rfl
@[simp] theorem State.logRead_ethV (v : Word) : (s.logRead v).ethV = s.ethV := rfl
@[simp] theorem State.logRead_ipV (v : Word) : (s.logRead v).ipV = s.ipV := rfl
@[simp] theorem State.logRead_piV (v : Word) : (s.logRead v).piV = s.piV := rfl
@[simp] theorem State.logRead_raV (v : Word) : (s.logRead v).raV = s.raV := rfl
@[simp] theorem State.logRead_eth (v : Word) : (s.logRead v).eth = s.eth := rfl
@[simp] theorem State.logRead_ip (v : Word) : (s.logRead v).ip = s.ip := rfl
@[simp] theorem State.logRead_pi (v : Word) : (s.logRead v).pi = s.pi := rfl
@[simp] theorem State.logRead_ra (v : Word) : (s.logRead v).ra = s.ra := rfl
@[simp] theorem State.logRead_host (v : Word) : (s.logRead v).host = { s.host with reads := v :: s.host.reads } := rfl
@[simp] theorem State.logRead_draw (v : Word) : (s.logRead v).draw = s.draw := rfl

/-! ## The host's branch -/

@[simp] theorem State.goTo_status (n : Nat) : (s.goTo n).status = s.status := rfl
@[simp] theorem State.goTo_cmd (n : Nat) : (s.goTo n).cmd = s.cmd := rfl
@[simp] theorem State.goTo_operand (n : Nat) : (s.goTo n).operand = s.operand := rfl
@[simp] theorem State.goTo_ibuf (n : Nat) : (s.goTo n).ibuf = s.ibuf := rfl
@[simp] theorem State.goTo_ibufLen (n : Nat) : (s.goTo n).ibufLen = s.ibufLen := rfl
@[simp] theorem State.goTo_obuf (n : Nat) : (s.goTo n).obuf = s.obuf := rfl
@[simp] theorem State.goTo_obufLen (n : Nat) : (s.goTo n).obufLen = s.obufLen := rfl
@[simp] theorem State.goTo_cksum (n : Nat) : (s.goTo n).cksum = s.cksum := rfl
@[simp] theorem State.goTo_ethV (n : Nat) : (s.goTo n).ethV = s.ethV := rfl
@[simp] theorem State.goTo_ipV (n : Nat) : (s.goTo n).ipV = s.ipV := rfl
@[simp] theorem State.goTo_piV (n : Nat) : (s.goTo n).piV = s.piV := rfl
@[simp] theorem State.goTo_raV (n : Nat) : (s.goTo n).raV = s.raV := rfl
@[simp] theorem State.goTo_eth (n : Nat) : (s.goTo n).eth = s.eth := rfl
@[simp] theorem State.goTo_ip (n : Nat) : (s.goTo n).ip = s.ip := rfl
@[simp] theorem State.goTo_pi (n : Nat) : (s.goTo n).pi = s.pi := rfl
@[simp] theorem State.goTo_ra (n : Nat) : (s.goTo n).ra = s.ra := rfl
@[simp] theorem State.goTo_host (n : Nat) : (s.goTo n).host = { s.host with line := n } := rfl
@[simp] theorem State.goTo_draw (n : Nat) : (s.goTo n).draw = s.draw := rfl

/-! ## The reset event -/

@[simp] theorem State.resetBlock_status : (s.resetBlock).status = State.reset.status := rfl
@[simp] theorem State.resetBlock_cmd : (s.resetBlock).cmd = State.reset.cmd := rfl
@[simp] theorem State.resetBlock_operand : (s.resetBlock).operand = State.reset.operand := rfl
@[simp] theorem State.resetBlock_ibuf : (s.resetBlock).ibuf = State.reset.ibuf := rfl
@[simp] theorem State.resetBlock_ibufLen : (s.resetBlock).ibufLen = State.reset.ibufLen := rfl
@[simp] theorem State.resetBlock_obuf : (s.resetBlock).obuf = State.reset.obuf := rfl
@[simp] theorem State.resetBlock_obufLen : (s.resetBlock).obufLen = State.reset.obufLen := rfl
@[simp] theorem State.resetBlock_cksum : (s.resetBlock).cksum = State.reset.cksum := rfl
@[simp] theorem State.resetBlock_ethV : (s.resetBlock).ethV = State.reset.ethV := rfl
@[simp] theorem State.resetBlock_ipV : (s.resetBlock).ipV = State.reset.ipV := rfl
@[simp] theorem State.resetBlock_piV : (s.resetBlock).piV = State.reset.piV := rfl
@[simp] theorem State.resetBlock_raV : (s.resetBlock).raV = State.reset.raV := rfl
@[simp] theorem State.resetBlock_eth : (s.resetBlock).eth = State.reset.eth := rfl
@[simp] theorem State.resetBlock_ip : (s.resetBlock).ip = State.reset.ip := rfl
@[simp] theorem State.resetBlock_pi : (s.resetBlock).pi = State.reset.pi := rfl
@[simp] theorem State.resetBlock_ra : (s.resetBlock).ra = State.reset.ra := rfl
@[simp] theorem State.resetBlock_host : (s.resetBlock).host = s.host := rfl
@[simp] theorem State.resetBlock_draw : (s.resetBlock).draw = s.draw := rfl

/-! ## A Prefix Information set -/

@[simp] theorem State.setPiSel_status (x : PiSel) (p : PiSet) : (s.setPiSel x p).status = s.status := by cases x <;> rfl
@[simp] theorem State.setPiSel_cmd (x : PiSel) (p : PiSet) : (s.setPiSel x p).cmd = s.cmd := by cases x <;> rfl
@[simp] theorem State.setPiSel_operand (x : PiSel) (p : PiSet) : (s.setPiSel x p).operand = s.operand := by cases x <;> rfl
@[simp] theorem State.setPiSel_ibuf (x : PiSel) (p : PiSet) : (s.setPiSel x p).ibuf = s.ibuf := by cases x <;> rfl
@[simp] theorem State.setPiSel_ibufLen (x : PiSel) (p : PiSet) : (s.setPiSel x p).ibufLen = s.ibufLen := by cases x <;> rfl
@[simp] theorem State.setPiSel_obuf (x : PiSel) (p : PiSet) : (s.setPiSel x p).obuf = s.obuf := by cases x <;> rfl
@[simp] theorem State.setPiSel_obufLen (x : PiSel) (p : PiSet) : (s.setPiSel x p).obufLen = s.obufLen := by cases x <;> rfl
@[simp] theorem State.setPiSel_cksum (x : PiSel) (p : PiSet) : (s.setPiSel x p).cksum = s.cksum := by cases x <;> rfl
@[simp] theorem State.setPiSel_ethV (x : PiSel) (p : PiSet) : (s.setPiSel x p).ethV = s.ethV := by cases x <;> rfl
@[simp] theorem State.setPiSel_ipV (x : PiSel) (p : PiSet) : (s.setPiSel x p).ipV = s.ipV := by cases x <;> rfl
@[simp] theorem State.setPiSel_piV (x : PiSel) (p : PiSet) : (s.setPiSel x p).piV = s.piV := by cases x <;> rfl
@[simp] theorem State.setPiSel_raV (x : PiSel) (p : PiSet) : (s.setPiSel x p).raV = s.raV := by cases x <;> rfl
@[simp] theorem State.setPiSel_eth (x : PiSel) (p : PiSet) : (s.setPiSel x p).eth = s.eth := by cases x <;> rfl
@[simp] theorem State.setPiSel_ip (x : PiSel) (p : PiSet) : (s.setPiSel x p).ip = s.ip := by cases x <;> rfl
@[simp] theorem State.setPiSel_host (x : PiSel) (p : PiSet) : (s.setPiSel x p).host = s.host := by cases x <;> rfl
@[simp] theorem State.setPiSel_draw (x : PiSel) (p : PiSet) : (s.setPiSel x p).draw = s.draw := by cases x <;> rfl
@[simp] theorem State.setPiSel_pi_standalone (p : PiSet) : (s.setPiSel .standalone p).pi = p := rfl
@[simp] theorem State.setPiSel_pi_routerAdv (p : PiSet) : (s.setPiSel .routerAdv p).pi = s.pi := rfl
@[simp] theorem State.setPiSel_ra_standalone (p : PiSet) : (s.setPiSel .standalone p).ra = s.ra := rfl
@[simp] theorem State.setPiSel_ra_routerAdv (p : PiSet) : (s.setPiSel .routerAdv p).ra = { s.ra with pi := p } := rfl
@[simp] theorem State.piSel_setPiSel (x : PiSel) (p : PiSet) : (s.setPiSel x p).piSel x = p := by cases x <;> rfl
@[simp] theorem State.vSel_setPiSel (x y : PiSel) (p : PiSet) : (s.setPiSel x p).vSel y = s.vSel y := by
  cases x <;> cases y <;> rfl

/-! ## Updates in a row -/

@[simp] theorem State.setStatus_setStatus (c d : Status) : (s.setStatus c).setStatus d = s.setStatus d := rfl

end Sys2Proof.Machine
end

