-- ==== Sys2Proof/Laws/Wire.lean ====
section
/-! SUPPORT. Laws/Wire.lean: the laws of the byte-order and byte-sequence helpers. -/

namespace Sys2Proof.Machine

theorem be16_getLsbD (a b : Byte) (i : Nat) :
    (be16 a b).getLsbD i = if i < 8 then b.getLsbD i else a.getLsbD (i - 8) := BitVec.getLsbD_append

/-- `bytes16` undoes `be16` (R11). -/
@[simp] theorem bytes16_be16 (a b : Byte) : bytes16 (be16 a b) = [a, b] := by
  simp only [bytes16, List.cons.injEq, and_true]
  constructor <;> (apply BitVec.eq_of_getLsbD_eq; intro i hi; simp [be16_getLsbD, hi])

@[simp] theorem bytes16_length (v : Half) : (bytes16 v).length = 2 := rfl
@[simp] theorem bytes32_length (v : Word) : (bytes32 v).length = 4 := rfl
@[simp] theorem zeros_length (n : Nat) : (zeros n).length = n := by simp [zeros]

theorem slice_length {bs : Bytes} {i j : Nat} (h : j ≤ bs.length) : (slice bs i j).length = j - i := by
  simp [slice]
  omega

/-- A field of `n` bytes taken from a sequence of exactly `n` bytes is that sequence. -/
theorem fixedBytes_toList {n : Nat} {bs : Bytes} (h : bs.length = n) : (fixedBytes n bs).toList = bs := by
  show (bs ++ zeros n).take n = bs
  rw [← h, List.take_left']
  rfl

/-- A field of `n` bytes is its own byte sequence read back. -/
@[simp] theorem fixedBytes_self {n : Nat} (v : Vector Byte n) : fixedBytes n v.toList = v := by
  apply Vector.toList_inj.mp
  exact fixedBytes_toList (by simp)

/-- The byte of a sequence at an index it has. -/
theorem byteAt_eq_getElem {bs : Bytes} {i : Nat} (h : i < bs.length) : byteAt bs i = bs[i] := by
  simp [byteAt, h]

/-- `be16` of the two bytes of a 16-bit value is the value. -/
@[simp] theorem be16_bytes16 (v : Half) : be16 (v.extractLsb' 8 8) (v.extractLsb' 0 8) = v := by
  apply BitVec.eq_of_getLsbD_eq
  intro i hi
  rw [be16_getLsbD]
  split
  · simp [*]
  · simp [show i - 8 < 8 by omega, show 8 + (i - 8) = i by omega]

/-- Equal 16-bit values are equal pairs of bytes. -/
theorem be16_inj {a b c d : Byte} : be16 a b = be16 c d ↔ a = c ∧ b = d := by
  constructor
  · intro h
    have h2 := congrArg bytes16 h
    simpa using h2
  · rintro ⟨rfl, rfl⟩
    rfl

/-- The bits of a `be32` word by its two halves. -/
theorem be32_getLsbD (a b c d : Byte) (i : Nat) :
    (be32 a b c d).getLsbD i = if i < 16 then (be16 c d).getLsbD i else (be16 a b).getLsbD (i - 16) :=
  BitVec.getLsbD_append (x := a ++ b) (y := c ++ d)

/-- `bytes32` undoes `be32` (R11). -/
@[simp] theorem bytes32_be32 (a b c d : Byte) : bytes32 (be32 a b c d) = [a, b, c, d] := by
  have h : ∀ (k : Nat) (x : Byte), (∀ j, j < 8 → (be32 a b c d).getLsbD (k + j) = x.getLsbD j) →
      (be32 a b c d).extractLsb' k 8 = x := by
    intro k x hx
    apply BitVec.eq_of_getLsbD_eq
    intro j hj
    rw [BitVec.getLsbD_extractLsb', hx j hj]
    simp [hj]
  unfold bytes32
  rw [h 24 a, h 16 b, h 8 c, h 0 d]
  all_goals
    intro j hj
    rw [be32_getLsbD, be16_getLsbD, be16_getLsbD]
  · rw [if_pos (by omega), if_pos (by omega), Nat.zero_add]
  · rw [if_pos (by omega), if_neg (by omega)]; congr 1; omega
  · rw [if_neg (by omega), if_pos (by omega)]; congr 1; omega
  · rw [if_neg (by omega), if_neg (by omega)]; congr 1; omega

/-- A register that shows two bytes shows them in its low half. -/
theorem bytes32_be16 (a b : Byte) : bytes32 ((be16 a b).setWidth 32) = [0, 0, a, b] := by
  rw [show (be16 a b).setWidth 32 = be32 0 0 a b from ?_, bytes32_be32]
  apply BitVec.eq_of_getLsbD_eq
  intro j hj
  rw [be32_getLsbD, BitVec.getLsbD_setWidth]
  split
  · simp [hj]
  · rw [BitVec.getLsbD_of_ge (be16 a b) j (by omega), be16_getLsbD]
    simp

end Sys2Proof.Machine
end

