-- ==== Sys2Proof/Laws/Ops.lean ====
section
/-! SUPPORT. Laws/Ops.lean: what each shared operation of a command can do, one lemma per operation. -/

namespace Sys2Proof.Machine

/-! ## How a command ends -/

/-- A raised code ends the command with only STATUS written (R81). -/
theorem raise_next {c : Status} {s t : State} : raise c s = .next t ↔ t = s.setStatus c := by
  simp [raise, eq_comm]

/-- A command that ends with `ok` commits its writes and STATUS is OK (R80). -/
theorem ok_next {s t : State} : ok s = .next t ↔ t = s.setStatus .ok := by
  simp [ok, eq_comm]

/-- The valid-bit check passes the command on, or raises NotConstructed (R82). -/
theorem requireValid_next {v : Bool} {s t : State} {k : Result} :
    requireValid v s k = .next t ↔ (v = true ∧ k = .next t) ∨ (v = false ∧ t = s.setStatus .notConstructed) := by
  cases v <;> simp [requireValid, raise_next]

@[simp] theorem requireValid_true (s : State) (k : Result) : requireValid true s k = k := rfl
@[simp] theorem requireValid_false (s : State) (k : Result) : requireValid false s k = raise .notConstructed s := rfl

/-! ## Operands -/

/-- The width check passes the command on, or raises ValueTooLarge (R83). -/
theorem withinLimit_next {limit : Nat} {s t : State} {k : Result} :
    withinLimit limit s k = .next t ↔
      (s.operand.toNat ≤ limit ∧ k = .next t) ∨ (limit < s.operand.toNat ∧ t = s.setStatus .valueTooLarge) := by
  by_cases h : s.operand.toNat ≤ limit
  · simp [withinLimit, h, Nat.not_lt.mpr h]
  · simp [withinLimit, h, Nat.lt_of_not_le h, raise_next]

theorem withinLimit_le {limit : Nat} {s : State} {k : Result} (h : s.operand.toNat ≤ limit) :
    withinLimit limit s k = k := if_pos h

theorem withinLimit_gt {limit : Nat} {s : State} {k : Result} (h : limit < s.operand.toNat) :
    withinLimit limit s k = raise .valueTooLarge s := if_neg (Nat.not_le.mpr h)

/-- The input is `IBUF_LEN` bytes long (R20, R64). -/
@[simp] theorem input_length (s : State) : (input s).length = s.ibufLen.toNat := by
  simp [input, memReadIbuf, inputLen]

/-- Byte `i` of the input is the IBUF cell `i`, a free byte where the cell is unwritten (R49, R151). -/
theorem input_getElem (s : State) (i : Nat) (h : i < (input s).length) : (input s)[i] = ibufByte s i := by
  simp [input, memReadIbuf]

/-- The input depends on IBUF, IBUF_LEN and the draw alone. -/
theorem input_congr {s t : State} (h1 : t.ibuf = s.ibuf) (h2 : t.ibufLen = s.ibufLen) (h3 : t.draw = s.draw) :
    input t = input s := by
  have h : ibufByte t = ibufByte s := by
    funext i
    simp only [ibufByte, h1, h3]
  simp only [input, memReadIbuf, inputLen, h2, h]

/-- The address check passes the whole input on, or raises AddressFamilyMismatch (R84). -/
theorem withAddress_next {n : Nat} {s t : State} {k : Vector Byte n → Result} :
    withAddress n s k = .next t ↔
      (s.ibufLen.toNat = n ∧ k (fixedBytes n (input s)) = .next t) ∨
        (s.ibufLen.toNat ≠ n ∧ t = s.setStatus .addressFamilyMismatch) := by
  by_cases h : s.ibufLen.toNat = n <;> simp [withAddress, inputLen, h, raise_next]

/-- An input that is the bytes of an address is that address. -/
theorem withAddress_eq {n : Nat} {s : State} {k : Vector Byte n → Result} {a : Vector Byte n}
    (h : input s = a.toList) : withAddress n s k = k a := by
  have hl : inputLen s = n := by
    have := congrArg List.length h
    simpa [inputLen] using this
  simp [withAddress, hl, h]

theorem withAddress_ne {n : Nat} {s : State} {k : Vector Byte n → Result} (h : s.ibufLen.toNat ≠ n) :
    withAddress n s k = raise .addressFamilyMismatch s := if_neg h

/-! ## Output -/

/-- A serialize command's write of `o` does what R59 says. -/
theorem emitted_emit (s : State) (o : Bytes) : Emitted s ((s.emit o).setStatus .ok) o := by
  refine ⟨rfl, rfl, fun i b h => ?_, fun i h => ?_, rfl⟩
  · have := Memory.read_writeBytes s.obuf 0 o i
    simpa [h] using this
  · have := Memory.read_writeBytes s.obuf 0 o i
    simpa [List.getElem?_eq_none h] using this

/-- A cell after a serialize: the output's byte, or past the output what was there (R59). -/
theorem read_emit (s : State) (o : Bytes) (i : Nat) :
    Memory.read (s.emit o).obuf i = (o[i]?).or (Memory.read s.obuf i) := by
  have := Memory.read_writeBytes s.obuf 0 o i
  rwa [Nat.zero_add] at this

/-- Output writes OBUF and OBUF_LEN alone, so it commutes with a change of anything else. -/
theorem emit_with_operand (s : State) (o : Bytes) (v : Word) :
    State.emit { s with operand := v } o = { s.emit o with operand := v } := rfl

theorem emit_with_input (s : State) (o : Bytes) (m : Memory) (l : Word) :
    State.emit { s with ibuf := m, ibufLen := l } o = { s.emit o with ibuf := m, ibufLen := l } := rfl

theorem emit_with_status (s : State) (o : Bytes) (c : Status) :
    State.emit { s with status := c } o = { s.emit o with status := c } := rfl

theorem emit_withOthers (s u : State) (o : Bytes) (k : Target) :
    State.emit (s.withOthers k u) o = (s.emit o).withOthers k u := rfl

/-! ## Flag bytes -/

theorem setFlag_getLsbD (f : Byte) (n : Nat) (v : Bool) (j : Nat) (hn : n < 8) (hj : j < 8) :
    (setFlag f n v).getLsbD j = if j = n then v else f.getLsbD j := by
  rcases Nat.lt_trichotomy j n with h | h | h
  · simp [setFlag, hj, h, Nat.ne_of_lt h]
  · subst h
    cases v <;> simp [setFlag, hj]
  · have hne : j - n ≠ 0 := by omega
    have h0 : ¬ j < n := by omega
    have h2 : j ≠ n := by omega
    cases v <;> simp [setFlag, hj, h0, h2, hne]

/-- The one flag byte that has bit `n` set to `v` and the other bits of `old` is what `setFlag` gives. -/
theorem flagWritten_iff {n : Nat} {v : Bool} {old f : Byte} (hn : n < 8) :
    FlagWritten n v old f ↔ f = setFlag old n v := by
  constructor
  · intro h
    apply BitVec.eq_of_getLsbD_eq
    intro j hj
    rw [h j hj, setFlag_getLsbD _ _ _ _ hn hj]
  · rintro rfl j hj
    exact setFlag_getLsbD _ _ _ _ hn hj

/-- Writing one of the bits 7, 6, 5 leaves the hardwired bits 4:0 as they are (R31, R32). -/
theorem setFlag_low (f : Byte) {n : Nat} (v : Bool) (h5 : 5 ≤ n) (h7 : n ≤ 7) :
    setFlag f n v &&& 0x1F#8 = f &&& 0x1F#8 := by
  apply BitVec.eq_of_getLsbD_eq
  intro j hj
  rw [BitVec.getLsbD_and, BitVec.getLsbD_and, setFlag_getLsbD _ _ _ _ (by omega) hj]
  by_cases h : j = n
  · subst h
    have hm : (0x1F#8).getLsbD j = false := by
      obtain rfl | rfl | rfl : j = 5 ∨ j = 6 ∨ j = 7 := by omega
      all_goals decide
    simp [hm]
  · simp [h]

end Sys2Proof.Machine
end

