-- ==== Sys2Proof/Laws/Exec.lean ====
section
/-! SUPPORT. Laws/Exec.lean: every command in one closed form. `raised` says which code a command raises, if any, in the
order of R137, and `effect` what it commits otherwise; `exec_eq` says that `exec` is exactly that. Claims about all
commands cite it and never unfold a meaning. -/

namespace Sys2Proof.Machine

/-- The instance check of R82, then the command's own checks. -/
def checkValid (v : Bool) (rest : Option Status) : Option Status := if v then rest else some .notConstructed

/-- The checks pass on a constructed set only. -/
theorem checkValid_none {v : Bool} {e : Option Status} (h : checkValid v e = none) : v = true ∧ e = none := by
  cases v
  · cases h
  · exact ⟨rfl, h⟩

/-- The width check of R83. -/
def checkWidth (limit : Nat) (s : State) : Option Status :=
  if s.operand.toNat ≤ limit then none else some .valueTooLarge

/-- The address check of R84, then the rest. -/
def checkAddress (n : Nat) (s : State) (rest : Option Status) : Option Status :=
  if inputLen s = n then rest else some .addressFamilyMismatch

/-- The code a command raises in a state, or none if it ends with `ok` (R134, R137). -/
def raised (s : State) : Instr → Option Status
  | .ethParse => if inputLen s < 14 then some .malformedHeader else none
  | .ethSerialize => checkValid s.ethV none
  | .ipNew => none
  | .ipParse => ipParseError (input s) (inputLen s)
  | .ipSerialize => checkValid s.ipV (if s.ip.totalLen > 0xFFFF then some .valueTooLarge else none)
  | .ipCksum =>
    if inputLen s < 20 then some .tooShort
    else if ihlOf (input s) < 5 then some .invalidHeaderLength
    else if inputLen s < ihlOf (input s) * 4 then some .tooShort
    else none
  | .ipSetTos | .ipSetTtl | .ipSetProto => checkValid s.ipV (checkWidth 0xFF s)
  | .ipSetId => checkValid s.ipV (checkWidth 0xFFFF s)
  | .ipSetSrc | .ipSetDst => checkValid s.ipV (checkAddress 4 s none)
  | .ipSetOptions =>
    checkValid s.ipV (if inputLen s % 4 ≠ 0 ∨ inputLen s > 40 then some .invalidOptionsLength else none)
  | .ipSetPayload => checkValid s.ipV none
  | .piCreate => checkAddress 16 s (checkWidth 0xFF s)
  | .piSerialize x | .piSetValidLt x | .piSetPrefLt x => checkValid (s.vSel x) none
  | .piSetOnlink x | .piSetAuto x | .piSetRouter x => checkValid (s.vSel x) (checkWidth 1 s)
  | .piSetPlen x => checkValid (s.vSel x) (checkWidth 0xFF s)
  | .piSetPrefix x => checkValid (s.vSel x) (checkAddress 16 s none)
  | .raCreate => checkAddress 16 s none
  | .raSerialize | .raSetReach | .raSetRetrans => checkValid s.raV none
  | .raSetChl => checkValid s.raV (checkWidth 0xFF s)
  | .raSetManaged | .raSetOther | .raSetHomeagent => checkValid s.raV (checkWidth 1 s)
  | .raSetDeflt => checkValid s.raV (checkWidth 0xFFFF s)

/-- `PIsel` with a flag bit taken from OPERAND. -/
def piFlagged (s : State) (x : PiSel) (n : Nat) : State :=
  s.setPiSel x { s.piSel x with flags := setFlag (s.piSel x).flags n (s.operand.getLsbD 0) }

/-- RA with a flag bit taken from OPERAND. -/
def raFlagged (s : State) (n : Nat) : State :=
  s.setRa { s.ra with flags := setFlag s.ra.flags n (s.operand.getLsbD 0) }

/-- What a command commits when it ends with `ok`, STATUS aside. -/
def effect (s : State) : Instr → State
  | .ethParse => { s with eth := ethOfBytes (input s), ethV := true }
  | .ethSerialize => s.emit (ethBytes s.eth)
  | .ipNew => { s with ip := IpSet.zero, ipV := true }
  | .ipParse => { s with ip := ipOfBytes (input s), ipV := true }
  | .ipSerialize => s.emit (ipBytes s.ip)
  | .ipCksum => { s with cksum := ck (input s) (2 * ihlOf (input s)) }
  | .ipSetTos => s.setIp { s.ip with tos := s.operand.extractLsb' 0 8 }
  | .ipSetId => s.setIp { s.ip with id := s.operand.extractLsb' 0 16 }
  | .ipSetTtl => s.setIp { s.ip with ttl := s.operand.extractLsb' 0 8 }
  | .ipSetProto => s.setIp { s.ip with proto := s.operand.extractLsb' 0 8 }
  | .ipSetSrc => s.setIp { s.ip with src := fixedBytes 4 (input s) }
  | .ipSetDst => s.setIp { s.ip with dst := fixedBytes 4 (input s) }
  | .ipSetOptions => s.setIp { s.ip with opt := input s }
  | .ipSetPayload => s.setIp { s.ip with pay := input s }
  | .piCreate => { s with pi := piCreated (fixedBytes 16 (input s)) (s.operand.extractLsb' 0 8), piV := true }
  | .piSerialize x => s.emit (piBytes (s.piSel x))
  | .piSetOnlink x => piFlagged s x bitL
  | .piSetAuto x => piFlagged s x bitA
  | .piSetRouter x => piFlagged s x bitR
  | .piSetValidLt x => s.setPiSel x { s.piSel x with vlt := s.operand }
  | .piSetPrefLt x => s.setPiSel x { s.piSel x with plt := s.operand }
  | .piSetPlen x => s.setPiSel x { s.piSel x with plen := s.operand.extractLsb' 0 8 }
  | .piSetPrefix x => s.setPiSel x { s.piSel x with pfx := fixedBytes 16 (input s) }
  | .raCreate => { s with ra := raCreated (fixedBytes 16 (input s)), raV := true }
  | .raSerialize => s.emit (raBytes s.ra)
  | .raSetChl => s.setRa { s.ra with chl := s.operand.extractLsb' 0 8 }
  | .raSetManaged => raFlagged s bitM
  | .raSetOther => raFlagged s bitO
  | .raSetHomeagent => raFlagged s bitH
  | .raSetDeflt => s.setRa { s.ra with deflt := s.operand.extractLsb' 0 16 }
  | .raSetReach => s.setRa { s.ra with reach := s.operand }
  | .raSetRetrans => s.setRa { s.ra with retrans := s.operand }

/-- A command that raises, or commits and ends with `ok`. -/
def finish (s : State) (e : Option Status) (u : State) : Result :=
  match e with
  | some c => raise c s
  | none => ok u

theorem finish_checkValid (v : Bool) (s u : State) (e : Option Status) :
    finish s (checkValid v e) u = requireValid v s (finish s e u) := by cases v <;> rfl

theorem finish_checkWidth (limit : Nat) (s u : State) :
    finish s (checkWidth limit s) u = withinLimit limit s (ok u) := by
  unfold checkWidth withinLimit
  split <;> rfl

theorem finish_checkAddress (n : Nat) (s u : State) (e : Option Status) :
    finish s (checkAddress n s e) u = withAddress n s fun _ => finish s e u := by
  unfold checkAddress withAddress
  split <;> rfl

/-- The address check hands on the whole input. -/
theorem withAddress_const {n : Nat} (s : State) (k : Vector Byte n → Result) :
    withAddress n s k = withAddress n s fun _ => k (fixedBytes n (input s)) := rfl

theorem finish_ite {p : Prop} [Decidable p] (s u : State) (c : Status) (e : Option Status) :
    finish s (if p then some c else e) u = if p then raise c s else finish s e u := by split <;> rfl

@[simp] theorem finish_none (s u : State) : finish s none u = ok u := rfl
@[simp] theorem finish_some (s u : State) (c : Status) : finish s (some c) u = raise c s := rfl

/-- Every command in closed form: it raises its first failing check, or commits its effect (R12, R81, R137). -/
theorem exec_eq (i : Instr) (s : State) : exec i s = finish s (raised s i) (effect s i) := by
  cases i <;>
    simp only [raised, effect, finish_checkValid, finish_checkWidth, finish_checkAddress, finish_ite, finish_none] <;>
    rfl

/-- What a command's next state is: the state with the raised code, or the committed effect with STATUS OK. -/
theorem exec_next {i : Instr} {s t : State} (h : exec i s = .next t) :
    (∃ c, raised s i = some c ∧ t = s.setStatus c) ∨ (raised s i = none ∧ t = (effect s i).setStatus .ok) := by
  rw [exec_eq] at h
  cases hf : raised s i with
  | some c =>
    rw [hf] at h
    exact .inl ⟨c, rfl, raise_next.mp h⟩
  | none =>
    rw [hf] at h
    exact .inr ⟨rfl, ok_next.mp h⟩

/-- A command that raises a code. -/
theorem exec_of_failure {i : Instr} {s : State} {c : Status} (h : raised s i = some c) :
    exec i s = .next (s.setStatus c) := by
  rw [exec_eq, h]
  rfl

/-- A command that ends with `ok`. -/
theorem exec_of_success {i : Instr} {s : State} (h : raised s i = none) :
    exec i s = .next ((effect s i).setStatus .ok) := by
  rw [exec_eq, h]
  rfl

/-- No command raises OK. -/
theorem failure_ne_ok {i : Instr} {s : State} {c : Status} (h : raised s i = some c) : c ≠ .ok := by
  rintro rfl
  revert h
  cases i <;> simp only [raised, checkValid, checkWidth, checkAddress, ipParseError] <;> (repeat' split) <;> simp

end Sys2Proof.Machine
end

