-- ==== Sys2Proof/Laws/Formats.lean ====
section
/-! SUPPORT. Laws/Formats.lean: the lengths of the wire forms, the bounds of the capacities, and the checksum sum one word
at a time. -/

namespace Sys2Proof.Machine

@[simp] theorem ethBytes_length (e : EthSet) : (ethBytes e).length = 14 + e.pay.length := by
  simp [ethBytes]
  omega

@[simp] theorem ipImage_length (p : IpSet) (c : Half) : (ipImage p c).length = 20 + p.opt.length := by
  simp [ipImage]
  omega

@[simp] theorem ipBytes_length (p : IpSet) : (ipBytes p).length = p.totalLen := by
  simp [ipBytes, IpSet.totalLen]

@[simp] theorem piBytes_length (p : PiSet) : (piBytes p).length = 32 := by simp [piBytes]

@[simp] theorem raBytes_length (r : RaSet) : (raBytes r).length = 48 := by simp [raBytes]

/-- The capacity bounds of R6. -/
theorem bufMax_ge : 60 ≤ Config.bufMax := Nat.le_add_left 60 _

theorem bufMax_le : Config.bufMax ≤ 16777156 := by
  have := Config.bufMaxRoom.isLt
  simp only [Config.bufMax]
  omega

theorem obufMax_eq : Config.obufMax = Config.bufMax + 60 := rfl

/-- The sum of R104, one word at a time; word 5 is skipped. -/
theorem ckSum_succ (h : Bytes) (k : Nat) :
    ckSum h (k + 1) = if k = 5 then ckSum h k else ckSum h k + (headerWord h k).setWidth 32 := rfl

/-- The header image by its bytes: twelve bytes, then the addresses and the options (R92). -/
theorem ipImage_eq (p : IpSet) (c : Half) :
    ipImage p c =
      [0x40 ||| BitVec.ofNat 8 p.ihl, p.tos, (BitVec.ofNat 16 p.totalLen).extractLsb' 8 8,
        (BitVec.ofNat 16 p.totalLen).extractLsb' 0 8, p.id.extractLsb' 8 8, p.id.extractLsb' 0 8,
        p.flags ++ p.frag.extractLsb' 8 5, p.frag.extractLsb' 0 8, p.ttl, p.proto, c.extractLsb' 8 8,
        c.extractLsb' 0 8] ++ (p.src.toList ++ (p.dst.toList ++ p.opt)) := by
  simp [ipImage, bytes16]

end Sys2Proof.Machine
end

