-- ==== Sys2Proof/Laws/PerInstr.lean ====
section
/-! SUPPORT. Laws/PerInstr.lean: the family `Encoding`, said of every command as syntax: the word the encoder gives it is a
legal word by the three checks of R66, with its opcode in bits 7:0. -/

namespace Sys2Proof.Laws.Encoding

/-- The word of a command is legal (R66) and carries its opcode (R60, R65). -/
def Statement (i : Instr) : Prop := Word.legal (encode i) = true ∧ (encode i).extractLsb' 0 8 = i.opcode

theorem ethParse : Statement .ethParse := ⟨by decide, encode_opcode _⟩
theorem ethSerialize : Statement .ethSerialize := ⟨by decide, encode_opcode _⟩
theorem ipNew : Statement .ipNew := ⟨by decide, encode_opcode _⟩
theorem ipParse : Statement .ipParse := ⟨by decide, encode_opcode _⟩
theorem ipSerialize : Statement .ipSerialize := ⟨by decide, encode_opcode _⟩
theorem ipCksum : Statement .ipCksum := ⟨by decide, encode_opcode _⟩
theorem ipSetTos : Statement .ipSetTos := ⟨by decide, encode_opcode _⟩
theorem ipSetId : Statement .ipSetId := ⟨by decide, encode_opcode _⟩
theorem ipSetTtl : Statement .ipSetTtl := ⟨by decide, encode_opcode _⟩
theorem ipSetProto : Statement .ipSetProto := ⟨by decide, encode_opcode _⟩
theorem ipSetSrc : Statement .ipSetSrc := ⟨by decide, encode_opcode _⟩
theorem ipSetDst : Statement .ipSetDst := ⟨by decide, encode_opcode _⟩
theorem ipSetOptions : Statement .ipSetOptions := ⟨by decide, encode_opcode _⟩
theorem ipSetPayload : Statement .ipSetPayload := ⟨by decide, encode_opcode _⟩
theorem piCreate : Statement .piCreate := ⟨by decide, encode_opcode _⟩
theorem piSerialize (x : PiSel) : Statement (.piSerialize x) := ⟨by cases x <;> decide, encode_opcode _⟩
theorem piSetOnlink (x : PiSel) : Statement (.piSetOnlink x) := ⟨by cases x <;> decide, encode_opcode _⟩
theorem piSetAuto (x : PiSel) : Statement (.piSetAuto x) := ⟨by cases x <;> decide, encode_opcode _⟩
theorem piSetRouter (x : PiSel) : Statement (.piSetRouter x) := ⟨by cases x <;> decide, encode_opcode _⟩
theorem piSetValidLt (x : PiSel) : Statement (.piSetValidLt x) := ⟨by cases x <;> decide, encode_opcode _⟩
theorem piSetPrefLt (x : PiSel) : Statement (.piSetPrefLt x) := ⟨by cases x <;> decide, encode_opcode _⟩
theorem piSetPlen (x : PiSel) : Statement (.piSetPlen x) := ⟨by cases x <;> decide, encode_opcode _⟩
theorem piSetPrefix (x : PiSel) : Statement (.piSetPrefix x) := ⟨by cases x <;> decide, encode_opcode _⟩
theorem raCreate : Statement .raCreate := ⟨by decide, encode_opcode _⟩
theorem raSerialize : Statement .raSerialize := ⟨by decide, encode_opcode _⟩
theorem raSetChl : Statement .raSetChl := ⟨by decide, encode_opcode _⟩
theorem raSetManaged : Statement .raSetManaged := ⟨by decide, encode_opcode _⟩
theorem raSetOther : Statement .raSetOther := ⟨by decide, encode_opcode _⟩
theorem raSetHomeagent : Statement .raSetHomeagent := ⟨by decide, encode_opcode _⟩
theorem raSetDeflt : Statement .raSetDeflt := ⟨by decide, encode_opcode _⟩
theorem raSetReach : Statement .raSetReach := ⟨by decide, encode_opcode _⟩
theorem raSetRetrans : Statement .raSetRetrans := ⟨by decide, encode_opcode _⟩

end Sys2Proof.Laws.Encoding
end

