-- ==== Sys2Proof/Laws/Step.lean ====
section
/-! SUPPORT. Laws/Step.lean: what one step can do, case by case over the host's actions. -/

namespace Sys2Proof.Machine

/-- The region and the offset of a host address as numbers (R41). -/
theorem regionOf_eq (a : Word) : regionOf a = a.toNat / 2 ^ 24 := by
  have := a.isLt
  rw [regionOf, BitVec.extractLsb'_toNat, Nat.shiftRight_eq_div_pow]
  omega

theorem offsetOf_eq (a : Word) : offsetOf a = a.toNat % 2 ^ 24 := by
  rw [offsetOf, BitVec.extractLsb'_toNat, Nat.shiftRight_eq_div_pow]
  simp

/-- Past the last line of the script nothing happens (R146, R157). -/
theorem step_idle {s : State} (h : nextAction s = none) : step s = .next s := by simp [step, runLine, h]

/-- On a line of the script the step is that host action, with the host's index moved on and a new draw. -/
theorem step_action {s : State} {a : HostAction} (h : nextAction s = some a) : step s = hostStep a s.advance := by
  simp [step, runLine, h]

/-- What executing a command word does (R66, R78). -/
theorem execute_next {w : Word} {s t : State} (h : execute w s = .next t) :
    (∃ i, decode w = .ok i ∧ exec i s = .next t) ∨
      ((∃ e, decode w = .error e) ∧ t = s.setStatus .illegalCommand) := by
  unfold execute at h
  split at h
  · rename_i i hi
    exact .inl ⟨i, hi, h⟩
  · rename_i e he
    exact .inr ⟨⟨e, he⟩, raise_next.mp h⟩

/-- What writing a register does: it runs a command, writes OPERAND, writes IBUF_LEN within the capacity, or does nothing
(R37). -/
theorem writeReg_next {r : Reg} {v : Word} {s t : State} (h : writeReg r v s = .next t) :
    writeCmd v s = .next t ∨ t = { s with operand := v } ∨
      (v.toNat ≤ Config.bufMax ∧ t = { s with ibufLen := v }) ∨ t = s := by
  unfold writeReg at h
  split at h
  · exact .inl h
  · cases h
    exact .inr (.inl rfl)
  · split at h
    · rename_i hv
      cases h
      exact .inr (.inr (.inl ⟨hv, rfl⟩))
    · cases h
      exact .inr (.inr (.inr rfl))
  · cases h
    exact .inr (.inr (.inr rfl))

/-- What a write of either width does: it runs a command, writes OPERAND, IBUF_LEN within the capacity, or IBUF cells below
the capacity, or does nothing (R37, R44, R46). -/
theorem write_next {a v : Word} {s t : State} (h : write32 a v s = .next t ∨ write8 a v s = .next t) :
    (∃ w, writeCmd w s = .next t) ∨ (∃ w, t = { s with operand := w }) ∨
      (∃ w, w.toNat ≤ Config.bufMax ∧ t = { s with ibufLen := w }) ∨
      (∃ cells, t = { s with ibuf := Memory.writeCells Config.bufMax s.ibuf cells }) ∨ t = s := by
  have key : (∃ r w, writeReg r w s = .next t) ∨
      (∃ cells, t = { s with ibuf := Memory.writeCells Config.bufMax s.ibuf cells }) ∨ t = s := by
    simp only [write32, write8] at h
    rcases h with h | h
    all_goals (split at h <;> split at h)
    · exact .inl ⟨_, _, h⟩
    · exact .inr (.inr (Host.Outcome.next.inj h).symm)
    · exact .inr (.inl ⟨_, (Host.Outcome.next.inj h).symm⟩)
    · exact .inr (.inr (Host.Outcome.next.inj h).symm)
    · exact .inl ⟨_, _, h⟩
    · exact .inr (.inr (Host.Outcome.next.inj h).symm)
    · rename_i hi
      refine .inr (.inl ⟨[(offsetOf a, v.extractLsb' 0 8)], ?_⟩)
      rw [Memory.writeCells_one _ _ (of_decide_eq_true hi).2]
      exact (Host.Outcome.next.inj h).symm
    · exact .inr (.inr (Host.Outcome.next.inj h).symm)
  rcases key with ⟨r, w, h⟩ | h | h
  · rcases writeReg_next h with h | h | h | h
    · exact .inl ⟨w, h⟩
    · exact .inr (.inl ⟨w, h⟩)
    · exact .inr (.inr (.inl ⟨w, h⟩))
    · exact .inr (.inr (.inr (.inr h)))
  · exact .inr (.inr (.inr (.inl h)))
  · exact .inr (.inr (.inr (.inr h)))

/-- At a register that is not CMD, OPERAND or IBUF_LEN, and where no register is, no write of the register region has an
effect, at either width (R37, R42, R46). -/
theorem write8_readOnly {a : Word} {s : State} (v : Word) (h0 : regionOf a = 0)
    (h : ∀ r w, regAt (offsetOf a) = some r → writeReg r w s = .next s) : write8 a v s = .next s := by
  rw [write8, if_pos h0]
  split
  · exact h _ _ ‹_›
  · rfl

/-- Outside IBUF and the register region no write has an effect, at either width (R44, R46). -/
theorem writes_elsewhere {a : Word} (v : Word) (s : State) (h0 : regionOf a ≠ 0) (h1 : inIbuf a = false) :
    write32 a v s = .next s ∧ write8 a v s = .next s := by
  simp [write32, write8, h0, h1]

/-- A read does not depend on what the host has received (R52). -/
theorem read8_host (s : State) (hs : HostSide) (a : Word) : read8 { s with host := hs } a = read8 s a := rfl

/-- READOUT delivers the first `n` OBUF bytes in order, and changes nothing else (R52, R70). -/
theorem readCells_eq (s : State) (n : Nat) :
    readCells s n = { s with host := { s.host with
      reads := ((List.range n).map fun i => read8 s (0x02000000#32 + BitVec.ofNat 32 i)).reverse ++ s.host.reads } } := by
  induction n with
  | zero => rfl
  | succ n ih =>
    rw [readCells, ih, read8_host, List.range_succ, List.map_append, List.reverse_append]
    rfl

/-- A command delivers nothing to the host: it has no way to return data but the state (R14). -/
theorem exec_host {i : Instr} {s t : State} (h : exec i s = .next t) : t.host = s.host := by
  rcases exec_next h with ⟨c, -, rfl⟩ | ⟨-, rfl⟩
  · rfl
  · cases i <;> simp [effect, piFlagged, raFlagged]

/-- A write of either width delivers nothing to the host. -/
theorem write_host {a v : Word} {s t : State} (h : write32 a v s = .next t ∨ write8 a v s = .next t) :
    t.host = s.host := by
  rcases write_next h with ⟨w, h⟩ | ⟨w, rfl⟩ | ⟨w, -, rfl⟩ | ⟨cells, rfl⟩ | rfl
  · rcases execute_next h with ⟨i, -, hx⟩ | ⟨-, rfl⟩
    · exact (exec_host hx :)
    · rfl
  all_goals rfl

/-- R55: no host action is a read-modify-write. Each either leaves the whole block as it was (a read), or delivers nothing
to the host (a write, the reset event). -/
theorem hostStep_read_or_write {act : HostAction} {s t : State} (h : hostStep act s = .next t) :
    { t with host := s.host } = s ∨ t.host = s.host := by
  cases act
  case w32 a v => exact .inr (write_host (.inl h))
  case w8 a v => exact .inr (write_host (.inr h))
  case readout =>
    cases h
    rw [readCells_eq]
    exact .inl rfl
  case bneStatus c n =>
    simp only [hostStep, branchOnStatus] at h
    split at h
    · cases h
      exact .inl rfl
    · split at h
      · cases h
        exact .inl rfl
      · cases h
  case reset =>
    cases h
    exact .inr rfl
  all_goals
    cases h
    exact .inl rfl

/-- What a step to a next state can be: nothing, a command, a write of OPERAND, of IBUF_LEN or of IBUF cells, the reset
event, or a change of the host's side and the draw alone. -/
theorem step_next {s t : State} (h : step s = .next t) :
    (∃ w i, decode w = .ok i ∧ exec i { s.advance with cmd := w } = .next t) ∨
    (∃ w, t = { s.advance with cmd := w, status := .illegalCommand }) ∨
    (∃ v, t = { s.advance with operand := v }) ∨
    (∃ v, v.toNat ≤ Config.bufMax ∧ t = { s.advance with ibufLen := v }) ∨
    (∃ cells, t = { s.advance with ibuf := Memory.writeCells Config.bufMax s.ibuf cells }) ∨
    t = s.advance.resetBlock ∨
    (∃ hs d, t = { s with host := hs, draw := d }) := by
  cases hn : nextAction s with
  | none =>
    rw [step_idle hn] at h
    cases h
    exact .inr (.inr (.inr (.inr (.inr (.inr ⟨s.host, s.draw, rfl⟩)))))
  | some a =>
    rw [step_action hn] at h
    cases a
    case w32 a v | w8 a v =>
      have hw : write32 a v s.advance = .next t ∨ write8 a v s.advance = .next t := by
        first
        | exact .inl h
        | exact .inr h
      rcases write_next hw with ⟨w, h⟩ | h | h | h | h
      · rcases execute_next h with ⟨i, hd, hx⟩ | ⟨-, h⟩
        · exact .inl ⟨w, i, hd, hx⟩
        · exact .inr (.inl ⟨w, h⟩)
      · exact .inr (.inr (.inl h))
      · exact .inr (.inr (.inr (.inl h)))
      · exact .inr (.inr (.inr (.inr (.inl h))))
      · exact .inr (.inr (.inr (.inr (.inr (.inr ⟨_, _, h⟩)))))
    case r32 a =>
      cases h
      exact .inr (.inr (.inr (.inr (.inr (.inr ⟨_, _, rfl⟩)))))
    case r8 a =>
      cases h
      exact .inr (.inr (.inr (.inr (.inr (.inr ⟨_, _, rfl⟩)))))
    case readout =>
      cases h
      rw [readCells_eq]
      exact .inr (.inr (.inr (.inr (.inr (.inr ⟨_, _, rfl⟩)))))
    case bneStatus c n =>
      simp only [hostStep, branchOnStatus] at h
      split at h
      · cases h
        exact .inr (.inr (.inr (.inr (.inr (.inr ⟨_, _, rfl⟩)))))
      · split at h
        · cases h
          exact .inr (.inr (.inr (.inr (.inr (.inr ⟨_, _, rfl⟩)))))
        · cases h
    case label n =>
      cases h
      exact .inr (.inr (.inr (.inr (.inr (.inr ⟨_, _, rfl⟩)))))
    case reset =>
      cases h
      exact .inr (.inr (.inr (.inr (.inr (.inl rfl)))))

end Sys2Proof.Machine
end

