-- ==== Sys2Proof/Tests/Slice0.lean ====
section
/-! SUPPORT. Tests/Slice0.lean: the model's own tests. Expected values are the spec's (95_test_vectors.md, or the example of
the rule named), never the model's. `test_` is a check of the model, `witness_` shows values that meet the hypotheses of
the obligation it is named after, one for each clause. -/

namespace Sys2Proof.Tests

open Sys2Proof.Machine

/-! ## Small states -/

/-- A buffer that holds the bytes from cell 0 on. -/
def cells (bs : Bytes) : Memory := (List.range bs.length).zip bs

/-- The reset state after `LOAD bs` (R70). -/
def loaded (bs : Bytes) : State :=
  { State.reset with ibuf := cells bs, ibufLen := BitVec.ofNat 32 bs.length }

/-- The state after one command. -/
def after (i : Instr) (s : State) : State :=
  match exec i s with
  | .next t => t
  | .fault _ => s
  | .refused _ => s

/-- The output `OBUF[0..OBUF_LEN)`. -/
def out (s : State) : List (Option Byte) := (List.range s.obufLen.toNat).map (Memory.read s.obuf)

/-- The frame of V-ETH-01. -/
def frame : Bytes := [0xFF, 0xFF, 0xFF, 0xFF, 0xFF, 0xFF, 0x02, 0, 0, 0, 0, 0x01, 0x08, 0x00]

/-- The header H0 of W6. -/
def h0 : Bytes := [0x45, 0, 0, 0x14, 0, 0, 0, 0, 0x40, 0x06, 0x7A, 0xE5] ++ zeros 8

/-- H0 with another first byte. -/
def h0First (b : Byte) : Bytes := b :: h0.drop 1

/-- The packet of V-IP-09 without its two trailing bytes. -/
def packet9 : Bytes :=
  [0x46, 0x10, 0x00, 0x20, 0x12, 0x34, 0x40, 0x00, 0x40, 0x11, 0x39, 0x4C, 0xC0, 0x00, 0x02, 0x01]
    ++ [0xC6, 0x33, 0x64, 0x07, 0x01, 0x01, 0x01, 0x00, 0xDE, 0xAD, 0xBE, 0xEF, 0xCA, 0xFE, 0x00, 0x01]

/-- The header of V-CK-05 with its single-fold checksum. -/
def carryHeader : Bytes :=
  [0x45, 0x00, 0x00, 0x14, 0x7A, 0xE9, 0x00, 0x00, 0x40, 0x06, 0xFF, 0xFC] ++ List.replicate 8 0xFF

/-- The prefix P16, 2001:db8::. -/
def p16 : Bytes := [0x20, 0x01, 0x0D, 0xB8] ++ zeros 12

/-- A fresh packet (R89) with a value in OPERAND. -/
def ipReady (v : Word) : State := { State.reset with ipV := true, operand := v }

/-- A fresh packet with bytes loaded. -/
def ipLoaded (bs : Bytes) : State := { loaded bs with ipV := true }

/-- PI as V-PI-01 leaves it, with a value in OPERAND. -/
def piReady (v : Word) : State :=
  { loaded p16 with
    piV := true, operand := v,
    pi := { pfx := fixedBytes 16 p16, plen := 64, flags := 0xC0, vlt := 0x00278D00, plt := 0x00093A80 } }

/-- RA as V-RA-01 leaves it, with a value in OPERAND. -/
def raReady (v : Word) : State :=
  { loaded p16 with
    raV := true, operand := v,
    ra := { chl := 64, flags := 0, deflt := 0, reach := 0, retrans := 0, pi := (piReady 0).pi } }

/-! ## Ill-formed words and scripts are refused -/

/-- A reserved bit (R62). -/
theorem test_wf_reserved_bit : Word.rsvZero 0x00000210 = false ∧ Word.rsvZero 0x80000010 = false := by decide

/-- An opcode outside R65 (V-CMD-02). -/
theorem test_wf_opcode :
    Word.opcodeListed 0x00000012 = false ∧ Word.opcodeListed 0x00000039 = false ∧ Word.opcodeListed 0x00000000 = false := by
  decide

/-- `sel = 1` where it is not allowed (V-CMD-03). -/
theorem test_wf_sel : Word.selAllowed 0x00000130 = false ∧ Word.selAllowed 0x00000110 = false := by decide

/-- The three checks together (R66), and a word that passes them. -/
theorem test_wf_legal :
    Word.legal 0x00000210 = false ∧ Word.legal 0x00000012 = false ∧ Word.legal 0x00000130 = false ∧
    Word.legal 0x00000137 = true := by decide

/-- A branch to a label the script does not declare, and a label declared twice (R69). -/
theorem test_wf_script_labels :
    Script.targetsDeclared [.bneStatus 0 1, .label 2] = false ∧ Script.labelsDistinct [.label 2, .label 2] = false := by
  decide

/-- A byte write to a register and 32-bit writes to a byte region and to an unmapped one (R69). -/
theorem test_wf_script_widths :
    widthOk (.w8 0x00000004 0x10) = false ∧ widthOk (.w32 0x01000000 5) = false ∧ widthOk (.w32 0x06000000 5) = false ∧
    scriptWf [.w8 0x00000004 0x10] = false := by decide

/-- A write of either width to a register that R34 marks RO has no effect (R37). -/
theorem test_read_only_register :
    hostStep (.w8 0x00000010 9) State.reset = .next State.reset ∧
    hostStep (.w32 0x00000010 9) State.reset = .next State.reset := by
  refine ⟨?_, rfl⟩
  exact write8_readOnly 9 rfl fun r w h => by
    cases (show some Reg.obufLen = some r from h)
    rfl

/-- A 32-bit write to a read-only byte region has no effect (R44), and a 32-bit read past its data is 0 (R45). -/
theorem test_wide_access_to_byte_region :
    hostStep (.w32 0x03000000 5) State.reset = .next State.reset ∧ read32 State.reset 0x03000000 = 0 := ⟨rfl, rfl⟩

/-! ## Decoding: every command, by words written out from R60 and R65 -/

/-- `rsv` 23 zeros, `sel` 0, opcode 0001 0000. -/
theorem test_decode_eth_bits :
    decode 0b00000000000000000000000000010000 = .ok .ethParse ∧
    decode 0b00000000000000000000000000010001 = .ok .ethSerialize := by decide

/-- `sel` is bit 8: the word of IP_SET_OPTIONS, and PI_SET_PLEN with and without it. -/
theorem test_decode_ip_pi_bits :
    decode 0b00000000000000000000000000101010 = .ok .ipSetOptions ∧
    decode 0b00000000000000000000000000110111 = .ok (.piSetPlen .standalone) ∧
    decode 0b00000000000000000000000100110111 = .ok (.piSetPlen .routerAdv) := by decide

/-- The word of RA_SET_RETRANS, opcode 0100 1000. -/
theorem test_decode_ra_bits : decode 0b00000000000000000000000001001000 = .ok .raSetRetrans := by decide

theorem test_decode_eth :
    [0x10, 0x11].map (decodeTableWord 32) = [some .ethParse, some .ethSerialize] := by decide

theorem test_decode_ip :
    [0x20, 0x21, 0x22, 0x23, 0x24, 0x25].map (decodeTableWord 32) =
      [some .ipNew, some .ipParse, some .ipSerialize, some .ipCksum, some .ipSetTos, some .ipSetId] ∧
    [0x26, 0x27, 0x28, 0x29, 0x2A, 0x2B].map (decodeTableWord 32) =
      [some .ipSetTtl, some .ipSetProto, some .ipSetSrc, some .ipSetDst, some .ipSetOptions, some .ipSetPayload] := by
  decide

theorem test_decode_pi :
    [0x30, 0x31, 0x32, 0x33, 0x34, 0x35, 0x36, 0x37, 0x38].map (decodeTableWord 32) =
      some .piCreate :: ([.piSerialize, .piSetOnlink, .piSetAuto, .piSetRouter, .piSetValidLt, .piSetPrefLt, .piSetPlen,
        .piSetPrefix] : List (PiSel → Instr)).map fun mk => some (mk .standalone) := by decide

theorem test_decode_rapi :
    [0x131, 0x132, 0x133, 0x134, 0x135, 0x136, 0x137, 0x138].map (decodeTableWord 32) =
      ([.piSerialize, .piSetOnlink, .piSetAuto, .piSetRouter, .piSetValidLt, .piSetPrefLt, .piSetPlen,
        .piSetPrefix] : List (PiSel → Instr)).map fun mk => some (mk .routerAdv) := by decide

theorem test_decode_ra :
    [0x40, 0x41, 0x42, 0x43, 0x44, 0x45, 0x46, 0x47, 0x48].map (decodeTableWord 32) =
      [some .raCreate, some .raSerialize, some .raSetChl, some .raSetManaged, some .raSetOther, some .raSetHomeagent,
       some .raSetDeflt, some .raSetReach, some .raSetRetrans] := by decide

/-- The illegal words of V-CMD-01 to V-CMD-04 and V-PI-08. -/
theorem test_decode_illegal :
    [0x00, 0x12, 0x2C, 0x39, 0x49, 0xFF, 0x110, 0x121, 0x130, 0x140, 0x210, 0x80000010, 0x139, 0x13F].all
      (fun w => decodeTableWord 32 w == none) = true := by decide

/-! ## The Ethernet unit -/

/-- V-ETH-01. -/
theorem test_ethParse_ok :
    let t := after .ethParse (loaded frame)
    t.status = .ok ∧ read32 t 0x040 = 0xFFFF ∧ read32 t 0x044 = 0xFFFFFFFF ∧ read32 t 0x048 = 0x0200 ∧
    read32 t 0x04C = 1 ∧ read32 t 0x050 = 0x0800 ∧ read32 t 0x054 = 1 ∧ read32 t 0x058 = 0 ∧ read32 t 0x014 = 1 := by
  decide

/-- V-ETH-02: 13 bytes. -/
theorem test_ethParse_short :
    let t := after .ethParse (loaded (frame.take 13))
    t.status = .malformedHeader ∧ t.ethV = false := by decide

/-- V-ETH-05b: the frame of V-ETH-05 is written back, four payload bytes included. -/
theorem test_ethSerialize_roundtrip :
    let b : Bytes := [0x33, 0x33, 0, 0, 0, 1, 2, 0, 0, 0, 0, 2, 0x86, 0xDD, 0x60, 0, 0, 0]
    let t := after .ethSerialize (after .ethParse (loaded b))
    t.status = .ok ∧ out t = b.map some := by decide

/-- V-ETH-06. -/
theorem test_ethSerialize_fresh : (after .ethSerialize State.reset).status = .notConstructed := by decide

/-! ## The IPv4 unit -/

/-- R89: a former packet is discarded. -/
theorem test_ipNew :
    let t := after .ipNew { ipReady 0 with ip := { IpSet.zero with ttl := 7, pay := [1] } }
    t.ip.ttl = 0 ∧ t.ip.pay = [] ∧ t.ipV = true := by decide

/-- V-IP-09: options, payload, flags, and trailing bytes dropped. -/
theorem test_ipParse_options :
    let t := after .ipParse (loaded (packet9 ++ [0xAA, 0xBB]))
    t.status = .ok ∧ t.ip.id = 0x1234 ∧ t.ip.flags = 2 ∧ t.ip.frag = 0 ∧ read32 t 0x098 = 0xC0000201 ∧
    read32 t 0x09C = 0xC6336407 ∧ t.ip.opt = [1, 1, 1, 0] ∧ t.ip.pay = [0xDE, 0xAD, 0xBE, 0xEF, 0xCA, 0xFE, 0, 1] ∧
    read32 t 0x0A8 = 6 ∧ read32 t 0x0AC = 0x20 := by decide

/-- V-CK-05b and V-CK-05c: the single-fold checksum is the one accepted. -/
theorem test_ipParse_single_fold :
    (after .ipParse (loaded carryHeader)).status = .ok ∧
    (after .ipParse (loaded (carryHeader.set 11 0xFB))).status = .checksumMismatch := by decide

/-- V-IP-18. -/
theorem test_ipSerialize_built :
    let p : IpSet := { IpSet.zero with
      ttl := 64, proto := 17, src := #v[0xC0, 0, 2, 1], dst := #v[0xC6, 0x33, 0x64, 7],
      pay := [0x04, 0xD2, 0x00, 0x35, 0x00, 0x08, 0x00, 0x00] }
    let t := after .ipSerialize { ipReady 0 with ip := p }
    t.status = .ok ∧ out t = ([0x45, 0, 0, 0x1C, 0, 0, 0, 0, 0x40, 0x11, 0x8E, 0x95, 0xC0, 0, 2, 1, 0xC6, 0x33, 0x64, 7,
      0x04, 0xD2, 0x00, 0x35, 0x00, 0x08, 0x00, 0x00] : Bytes).map some := by decide

/-- V-IP-11: flag and offset bits are written back. -/
theorem test_ipSerialize_flags :
    let b : Bytes := [0x45, 0, 0, 0x14, 0, 0, 0xBF, 0xFF, 0x40, 0x06, 0xBA, 0xE5] ++ zeros 8
    let t := after .ipParse (loaded b)
    t.ip.flags = 5 ∧ t.ip.frag = 0x1FFF ∧ out (after .ipSerialize t) = b.map some := by decide

/-- V-IP-13 (TOS). -/
theorem test_ipSetTos :
    (after .ipSetTos (ipReady 0xFF)).ip.tos = 0xFF ∧ (after .ipSetTos (ipReady 0x100)).status = .valueTooLarge := by decide

/-- V-IP-12: 65535 is accepted, 65536 is not. -/
theorem test_ipSetId :
    (after .ipSetId (ipReady 0xFFFF)).ip.id = 0xFFFF ∧ (after .ipSetId (ipReady 0x10000)).status = .valueTooLarge := by
  decide

/-- V-IP-13 (TTL). -/
theorem test_ipSetTtl :
    (after .ipSetTtl (ipReady 0xFF)).ip.ttl = 0xFF ∧ (after .ipSetTtl (ipReady 0x100)).status = .valueTooLarge := by decide

/-- V-IP-13 (PROTO). -/
theorem test_ipSetProto :
    (after .ipSetProto (ipReady 0xFF)).ip.proto = 0xFF ∧ (after .ipSetProto (ipReady 0x100)).status = .valueTooLarge := by
  decide

/-- V-IP-14: lengths 4 and 16. -/
theorem test_ipSetSrc :
    read32 (after .ipSetSrc (ipLoaded [1, 2, 3, 4])) 0x098 = 0x01020304 ∧
    (after .ipSetSrc (ipLoaded p16)).status = .addressFamilyMismatch := by decide

/-- V-IP-14 on DST: lengths 4 and 5. -/
theorem test_ipSetDst :
    read32 (after .ipSetDst (ipLoaded [1, 2, 3, 4])) 0x09C = 0x01020304 ∧
    (after .ipSetDst (ipLoaded [1, 2, 3, 4, 5])).status = .addressFamilyMismatch := by decide

/-- V-IP-15: lengths 40, 44 and 5. -/
theorem test_ipSetOptions :
    read32 (after .ipSetOptions (ipLoaded (List.replicate 40 1))) 0x0A8 = 0xF ∧
    (after .ipSetOptions (ipLoaded (List.replicate 44 1))).status = .invalidOptionsLength ∧
    (after .ipSetOptions (ipLoaded [1, 2, 3, 4, 5])).status = .invalidOptionsLength := by decide

/-- R102, its example. -/
theorem test_ipSetPayload :
    let t := after .ipSetPayload (ipLoaded [0x04, 0xD2, 0x00, 0x35, 0x00, 0x08, 0x00, 0x00])
    read32 t 0x0A4 = 8 ∧ read32 t 0x0AC = 28 := by decide

/-! ## The checksum engine -/

/-- V-CK-04 and V-CK-05. -/
theorem test_ipCksum :
    (after .ipCksum (loaded [0x45, 0, 0, 0x73, 0, 0, 0x40, 0, 0x40, 0x11, 0, 0, 0xC0, 0xA8, 0, 1, 0xC0, 0xA8, 0, 0xC7])).cksum
      = 0xB861 ∧
    (after .ipCksum (loaded carryHeader)).cksum = 0xFFFC := by decide

/-- V-CK-09 (c) and (d): no version check, and a header longer than the input. -/
theorem test_ipCksum_checks :
    (after .ipCksum (loaded (h0First 0x46))).status = .tooShort ∧
    (after .ipCksum (loaded (h0First 0x65))).cksum = 0x5AE5 := by decide

/-! ## The Prefix Information unit -/

/-- V-PI-01. -/
theorem test_piCreate :
    let t := after .piCreate { loaded p16 with operand := 64 }
    t.status = .ok ∧ read32 t 0x100 = 0x20010DB8 ∧ read32 t 0x10C = 0 ∧ read32 t 0x110 = 0x40 ∧ read32 t 0x114 = 0xC0 ∧
    read32 t 0x118 = 0x00278D00 ∧ read32 t 0x11C = 0x00093A80 ∧ read32 t 0x014 = 4 := by decide

/-- V-PI-02 (c) and (d): the address check comes first. -/
theorem test_piCreate_checks :
    (after .piCreate { loaded p16 with operand := 256 }).status = .valueTooLarge ∧
    (after .piCreate { loaded (p16.take 4) with operand := 256 }).status = .addressFamilyMismatch := by decide

/-- V-PI-01, its output. -/
theorem test_piSerialize :
    out (after (.piSerialize .standalone) (piReady 0)) =
      (([0x03, 0x04, 0x40, 0xC0, 0x00, 0x27, 0x8D, 0x00, 0x00, 0x09, 0x3A, 0x80, 0, 0, 0, 0] : Bytes) ++ p16).map some := by
  decide

/-- V-PI-07b: `sel = 1` tests RA.V. -/
theorem test_piSerialize_ra : (after (.piSerialize .routerAdv) (piReady 0)).status = .notConstructed := by decide

/-- V-PI-03: the first step, and a value above 1. -/
theorem test_piSetOnlink :
    read32 (after (.piSetOnlink .standalone) (piReady 0)) 0x114 = 0x40 ∧
    (after (.piSetOnlink .standalone) (piReady 2)).status = .valueTooLarge := by decide

/-- R117, its example. -/
theorem test_piSetAuto : read32 (after (.piSetAuto .standalone) (piReady 0)) 0x114 = 0x80 := by decide

/-- R118, its example. -/
theorem test_piSetRouter : read32 (after (.piSetRouter .standalone) (piReady 1)) 0x114 = 0xE0 := by decide

/-- R119, its example; V-RA-03 on RA.PI. -/
theorem test_piSetValidLt :
    read32 (after (.piSetValidLt .standalone) (piReady 86400)) 0x118 = 0x00015180 ∧
    read32 (after (.piSetValidLt .routerAdv) (raReady 86400)) 0x158 = 0x00015180 := by decide

/-- V-PI-04: every value is legal. -/
theorem test_piSetPrefLt :
    read32 (after (.piSetPrefLt .standalone) (piReady 0xFFFFFFFF)) 0x11C = 0xFFFFFFFF := by decide

/-- V-PI-05 and V-RA-03. -/
theorem test_piSetPlen :
    read32 (after (.piSetPlen .standalone) (piReady 200)) 0x110 = 0xC8 ∧
    read32 (after (.piSetPlen .routerAdv) (raReady 48)) 0x150 = 48 := by decide

/-- V-PI-06: the prefix length stays. -/
theorem test_piSetPrefix :
    let t := after (.piSetPrefix .standalone) { piReady 0 with ibuf := cells (0xFD :: zeros 15) }
    read32 t 0x100 = 0xFD000000 ∧ read32 t 0x110 = 0x40 := by decide

/-! ## The Router Advertisement unit -/

/-- V-RA-06: OPERAND is ignored. -/
theorem test_raCreate :
    let t := after .raCreate { loaded p16 with operand := 0xFFFFFFFF }
    t.status = .ok ∧ read32 t 0x180 = 64 ∧ read32 t 0x150 = 64 ∧ read32 t 0x154 = 0xC0 ∧ read32 t 0x140 = 0x20010DB8 ∧
    read32 t 0x110 = 0 ∧ read32 t 0x008 = 0xFFFFFFFF := by decide

/-- V-RA-01. -/
theorem test_raSerialize :
    out (after .raSerialize (raReady 0)) =
      (([0x86, 0, 0, 0, 0x40] : Bytes) ++ zeros 11
        ++ ([0x03, 0x04, 0x40, 0xC0, 0x00, 0x27, 0x8D, 0x00, 0x00, 0x09, 0x3A, 0x80, 0, 0, 0, 0] ++ p16)).map some := by
  decide

/-- V-RA-03 and V-RA-04b (CHL). -/
theorem test_raSetChl :
    read32 (after .raSetChl (raReady 255)) 0x180 = 0xFF ∧ (after .raSetChl (raReady 256)).status = .valueTooLarge := by
  decide

/-- R127, its example. -/
theorem test_raSetManaged : read32 (after .raSetManaged (raReady 1)) 0x184 = 0x80 := by decide

/-- R128, its example. -/
theorem test_raSetOther : read32 (after .raSetOther (raReady 1)) 0x184 = 0x40 := by decide

/-- R129, its example. -/
theorem test_raSetHomeagent : read32 (after .raSetHomeagent (raReady 1)) 0x184 = 0x20 := by decide

/-- V-RA-04: the 16-bit pattern of -1, and its 32-bit pattern. -/
theorem test_raSetDeflt :
    read32 (after .raSetDeflt (raReady 0xFFFF)) 0x188 = 0xFFFF ∧
    (after .raSetDeflt (raReady 0xFFFFFFFF)).status = .valueTooLarge := by decide

/-- R131, its example. -/
theorem test_raSetReach : read32 (after .raSetReach (raReady 30000)) 0x18C = 0x00007530 := by decide

/-- R132, its example. -/
theorem test_raSetRetrans : read32 (after .raSetRetrans (raReady 1000)) 0x190 = 0x000003E8 := by decide

/-! ## The host port and the step -/

/-- V-CMD-01: the word is stored, STATUS takes the code. -/
theorem test_illegal_word :
    hostStep (.w32 0x00000004 0x00000099) State.reset
      = .next { State.reset with cmd := 0x00000099, status := .illegalCommand } := rfl

/-- V-HOST-01, V-HOST-03 and V-HOST-09: misaligned and unmapped reads. -/
theorem test_reads :
    read32 (raReady 0xDEADBEEF) 0x00000006 = 0 ∧ read32 (raReady 0) 0x00000020 = 0 ∧ read32 (raReady 0) 0x06000000 = 0 ∧
    read8 (raReady 0) 0x06000000 = 0 ∧ read32 (raReady 0xDEADBEEF) 0x00000008 = 0xDEADBEEF := by decide

/-- V-HOST-02: a misaligned write executes nothing. -/
theorem test_misaligned_write : hostStep (.w32 0x00000005 0x10) State.reset = .next State.reset := rfl

/-- V-HOST-08: only bits 7:0 of the data are stored. -/
theorem test_byte_write :
    hostStep (.w8 0x01000000 0x1AB) State.reset = .next { State.reset with ibuf := [(0, 0xAB)] } := by
  have h : inIbuf 0x01000000 = true := decide_eq_true ⟨rfl, lt_of_lt_of_le (by decide) bufMax_ge⟩
  rw [hostStep, write8, if_neg (by decide), if_pos h]
  rfl

/-- V-ETH-05: reads of the payload and past it. -/
theorem test_payload_reads :
    let s : State := { State.reset with eth := { EthSet.zero with pay := [0x60, 0, 0, 0] } }
    read8 s 0x03000000 = 0x60 ∧ read8 s 0x03000004 = 0 ∧ read8 s 0x03FFFFFF = 0 := by decide

/-- R70: LOAD and CMD with an operand. -/
theorem test_script_expansions :
    load [0xC6, 0x33] = [.w8 0x01000000 0xC6, .w8 0x01000001 0x33, .w32 0x0000000C 2] ∧
    cmdWith (.piSetPlen .routerAdv) 48 = [.w32 0x00000008 48, .w32 0x00000004 0x00000137] := by decide

/-- A command placed for the next step is the one the step runs. -/
theorem test_step_runs_placed_command :
    ∃ t, step (State.reset.withFetchWord 32 0x20) = .next t ∧ t.ipV = true ∧ t.cmd = 0x20 ∧ t.host.line = 1 :=
  ⟨_, rfl, rfl, rfl, rfl⟩

/-- READOUT reads OBUF_LEN, then the output (R70). -/
theorem test_readout :
    ∃ t, hostStep .readout { State.reset with obuf := [(0, 0xAB)], obufLen := 1 } = .next t ∧ t.host.reads.length = 2 ∧
      t.host.reads.getLast? = some 1 := ⟨_, rfl, rfl, rfl⟩

/-! ## Values that meet the hypotheses of the obligations -/

/-- A reset block whose host is at line 0 of a script. -/
def scripted (sc : Script) : State := { State.reset with host := { script := sc, line := 0, reads := [] } }

theorem witness_StepRunsDecodedCommand :
    (scripted [.w32 0x00000004 0x10]).host.script[0]? = some (.w32 0x00000004 0x10) ∧ decode 0x10 = .ok .ethParse ∧
    (scripted [.w32 0x00000004 0x12]).host.script[0]? = some (.w32 0x00000004 0x12) ∧
    decode 0x12 = .error .unknownOpcode := by decide

theorem witness_IdleStepKeepsAllState :
    State.reset.host.script.length ≤ State.reset.host.line ∧
    (({ scripted [.label 1] with host := { script := [.label 1], line := 1, reads := [] } } : State).host.script.length ≤ 1) := by
  decide

/-- The branch falls through, is taken to a label, and has no label. -/
theorem witness_BranchOnStatusFollowsScript :
    (scripted [.bneStatus 0 7]).host.script[0]? = some (.bneStatus 0 7) ∧
    (scripted [.bneStatus 0 7]).status.code.setWidth 32 = (0 : Word) ∧
    (scripted [.bneStatus 6 7, .label 7]).status.code.setWidth 32 ≠ (6 : Word) ∧
    ((scripted [.bneStatus 6 7, .label 7]).host.script[1]? = some (.label 7) ∧
      ∀ j : Nat, j < 1 → (scripted [.bneStatus 6 7, .label 7]).host.script[j]? ≠ some (.label 7)) ∧
    ∀ k : Nat, (scripted [.bneStatus 6 7]).host.script[k]? ≠ some (.label 7) := by
  refine ⟨rfl, rfl, by decide, by decide, fun k h => ?_⟩
  obtain _ | k := k
  · cases h
  · cases h

theorem witness_DecodeEncodeAgree : decode 0x00000138 = .ok (.piSetPrefix .routerAdv) := by decide

theorem witness_IllegalWordsRaiseIllegalCommand : Word.legal 0x00000000 = false ∧ Word.legal 0xFFFFFFFF = false := by decide

/-- An access of each width at the address of a register and of a byte region. -/
theorem witness_EveryCommandCompletes :
    (∀ c n, HostAction.w8 0x00000008 1 ≠ .bneStatus c n) ∧ (∀ c n, HostAction.w32 0x01000000 1 ≠ .bneStatus c n) ∧
    (∀ c n, HostAction.r8 0x00000000 ≠ .bneStatus c n) ∧ ∀ c n, HostAction.r32 0x03000000 ≠ .bneStatus c n :=
  ⟨nofun, nofun, nofun, nofun⟩

theorem witness_FailedCommandChangesOnlyStatus :
    ∃ t, exec .ethSerialize State.reset = .next t ∧ t.status ≠ .ok := ⟨_, rfl, by decide⟩

theorem witness_CodesOfEachCommand : ∃ t, exec .ipNew State.reset = .next t := ⟨_, rfl⟩

theorem witness_CommandsKeepTheirInputs : ∃ t, exec .raCreate (loaded p16) = .next t := ⟨_, rfl⟩

/-- A command that takes neither input, one that takes bytes only, and one that takes a number only. -/
theorem witness_CommandsIgnoreWhatTheyDoNotTake :
    (∃ t, exec .ipNew State.reset = .next t) ∧ readsOperand .ipNew = false ∧ readsInput .ipNew = false ∧
    (∃ t, exec .ethParse (loaded frame) = .next t) ∧ readsOperand .ethParse = false ∧
    (∃ t, exec .raSetReach (raReady 5) = .next t) ∧ readsInput .raSetReach = false :=
  ⟨⟨_, rfl⟩, rfl, rfl, ⟨_, rfl⟩, rfl, ⟨_, rfl⟩, rfl⟩

theorem witness_OnlyBuildersSetValidBits : ∃ t, exec .ipNew State.reset = .next t ∧ t.ipV ≠ State.reset.ipV :=
  ⟨_, rfl, by decide⟩

/-- IP_SET_TOS meets the hypotheses of all three clauses. -/
theorem witness_ReadOnlyStateHasNoOtherWriter :
    (∃ t, exec .ipSetTos (ipReady 1) = .next t) ∧ Instr.ipSetTos ≠ .ipCksum ∧ isSerialize .ipSetTos = false ∧
    Instr.ipSetTos ≠ .ipParse ∧ Instr.ipSetTos ≠ .ipNew := ⟨⟨_, rfl⟩, by decide⟩

/-- Each of the four sets is no target of some command, and a `.RA` command has `sel = 1`. -/
theorem witness_CommandsChangeOnlyTheirTarget :
    (∃ t, exec .ipNew State.reset = .next t) ∧ target .ipNew ≠ .eth ∧ target .ipNew ≠ .pi ∧ target .ipNew ≠ .ra ∧
    (∃ t, exec (.piSetPlen .routerAdv) (raReady 48) = .next t) ∧ target (.piSetPlen .routerAdv) ≠ .ip ∧
    (Instr.piSetPlen .routerAdv).selBit = 1#1 := ⟨⟨_, rfl⟩, by decide, by decide, by decide, ⟨_, rfl⟩, by decide⟩

theorem witness_UnitsDoNotReadEachOther : ∃ t, exec .ipSetTos (ipReady 1) = .next t := ⟨_, rfl⟩

theorem witness_InstanceCheckComesFirst :
    instanceBit State.reset .ipSetTos = some false ∧ instanceBit (piReady 0) (.piSerialize .routerAdv) = some false ∧
    instanceBit State.reset .ipNew = none := by decide

/-- The least value over each limit, and PI_CREATE with its address check passed. -/
theorem witness_WidthCheckRaises :
    numericLimit .raSetManaged = some 1 ∧ 1 < (raReady 2).operand.toNat ∧ instanceBit (raReady 2) .raSetManaged = some true ∧
    numericLimit .ipSetTos = some 0xFF ∧ 0xFF < (ipReady 0x100).operand.toNat ∧
    instanceBit (ipReady 0x100) .ipSetTos = some true ∧
    numericLimit .ipSetId = some 0xFFFF ∧ 0xFFFF < (ipReady 0x10000).operand.toNat ∧
    numericLimit .piCreate = some 0xFF ∧ 0xFF < (piReady 0x100).operand.toNat ∧ (piReady 0x100).ibufLen.toNat = 16 := by
  decide

theorem witness_AddressCheckRaises :
    addressLength .ipSetSrc = some 4 ∧ (ipLoaded [1, 2, 3, 4, 5]).ibufLen.toNat ≠ 4 ∧
    instanceBit (ipLoaded [1, 2, 3, 4, 5]) .ipSetSrc ≠ some false ∧
    addressLength .raCreate = some 16 ∧ (loaded (p16 ++ [0])).ibufLen.toNat ≠ 16 ∧
    instanceBit (loaded (p16 ++ [0])) .raCreate ≠ some false := by decide

/-- A written cell of the input and an unwritten one. -/
theorem witness_InputIsIbufPrefix :
    0 < ({ State.reset with ibuf := [(0, 0xAB)], ibufLen := 2 } : State).ibufLen.toNat ∧
    Memory.read [(0, 0xAB)] 0 = some 0xAB ∧ Memory.read [(0, 0xAB)] 1 = none := by decide

/-- A state of the invariant that a step changes: a packet with options, and a setter on the next line. -/
theorem witness_InvariantKeptByEveryStep :
    State.Inv { scripted [.w32 0x00000004 0x00000026] with ipV := true, ip := { IpSet.zero with opt := [1, 1, 1, 0] } } ∧
    ∃ t, step { scripted [.w32 0x00000004 0x00000026] with ipV := true, ip := { IpSet.zero with opt := [1, 1, 1, 0] } }
      = .next t := by
  have hge : 14 ≤ Config.bufMax := le_trans (by decide) bufMax_ge
  refine ⟨?_, _, rfl⟩
  constructor
  case ethPayLe => exact hge
  case ethFresh => exact fun _ => rfl
  case piFresh => exact fun _ => rfl
  case raFresh => exact fun _ => rfl
  case ipFresh => exact fun h => nomatch h
  case ibufCells => exact fun c h => nomatch h
  case obufCells => exact fun c h => nomatch h
  case obufWritten => exact fun i h => absurd h (Nat.not_lt_zero i)
  case ibufLenLe => exact Nat.zero_le _
  case obufLenLe => exact Nat.zero_le _
  case ipPayLe => exact Nat.zero_le _
  all_goals decide

theorem witness_EthParseLoadsFrame :
    14 ≤ (loaded frame).ibufLen.toNat ∧ (loaded (frame.take 13)).ibufLen.toNat < 14 := by decide

theorem witness_EthSerializeWritesFrame :
    (after .ethParse (loaded frame)).ethV = true ∧ State.reset.ethV = false := by decide

theorem witness_EthParseThenSerializeReproducesFrame : 14 ≤ (loaded frame).ibufLen.toNat := by decide

/-- The hypotheses of the six clauses of IpParseChecksAndLoads, at 19 bytes, version 6, IHL 4, total lengths 19 and 21,
a wrong checksum, and H0. -/
theorem witness_IpParseChecksAndLoads :
    (loaded (h0.take 19)).ibufLen.toNat < 20 ∧
    (20 ≤ (loaded (h0First 0x65)).ibufLen.toNat ∧
      ((byteAt (input (loaded (h0First 0x65))) 0).extractLsb' 4 4).toNat ≠ 4) ∧
    (((byteAt (input (loaded (h0First 0x44))) 0).extractLsb' 4 4).toNat = 4 ∧
      ((byteAt (input (loaded (h0First 0x44))) 0).extractLsb' 0 4).toNat < 5) ∧
    (be16 (byteAt (input (loaded (h0.set 3 0x13))) 2) (byteAt (input (loaded (h0.set 3 0x13))) 3)).toNat < 5 * 4 ∧
    20 < (be16 (byteAt (input (loaded (h0.set 3 0x15))) 2) (byteAt (input (loaded (h0.set 3 0x15))) 3)).toNat ∧
    ck (input (loaded (h0.set 11 0xE6))) 10 ≠
      be16 (byteAt (input (loaded (h0.set 11 0xE6))) 10) (byteAt (input (loaded (h0.set 11 0xE6))) 11) ∧
    (((byteAt (input (loaded h0)) 0).extractLsb' 0 4).toNat = 5 ∧
      (be16 (byteAt (input (loaded h0)) 2) (byteAt (input (loaded h0)) 3)).toNat = 20 ∧
      ck (input (loaded h0)) 10 = be16 (byteAt (input (loaded h0)) 10) (byteAt (input (loaded h0)) 11)) := by decide

/-- No options, and the most options R29 allows. -/
theorem witness_IpImageLayout :
    IpSet.zero.opt.length % 4 = 0 ∧ IpSet.zero.opt.length ≤ 40 ∧
    (List.replicate 40 (1 : Byte)).length % 4 = 0 ∧ (List.replicate 40 (1 : Byte)).length ≤ 40 := by decide

/-- The largest total length that fits, the least that does not, and an unconstructed packet. -/
theorem witness_IpSerializeWritesPacket :
    (ipReady 0).ipV = true ∧ 20 + IpSet.zero.opt.length + (List.replicate 65515 (0 : Byte)).length ≤ 0xFFFF ∧
    0xFFFF < 20 + IpSet.zero.opt.length + (List.replicate 65516 (0 : Byte)).length ∧ State.reset.ipV = false := by
  refine ⟨rfl, ?_, ?_, rfl⟩ <;> rw [List.length_replicate] <;> decide

/-- Both sides of each limit. -/
theorem witness_IpNumericSetters :
    (ipReady 0xFF).ipV = true ∧ (ipReady 0xFF).operand.toNat ≤ 0xFF ∧ 0xFF < (ipReady 0x100).operand.toNat ∧
    (ipReady 0xFFFF).operand.toNat ≤ 0xFFFF ∧ 0xFFFF < (ipReady 0x10000).operand.toNat ∧ State.reset.ipV = false := by
  decide

theorem witness_IpAddressSetters :
    (ipLoaded [1, 2, 3, 4]).ipV = true ∧ input (ipLoaded [1, 2, 3, 4]) = (#v[1, 2, 3, 4] : Vector Byte 4).toList ∧
    (ipLoaded [1, 2, 3]).ibufLen.toNat ≠ 4 ∧ State.reset.ipV = false := by decide

/-- Lengths 0 and 40 pass; 41 and 44 do not. -/
theorem witness_IpByteSequenceSetters :
    (ipLoaded []).ipV = true ∧ (ipLoaded []).ibufLen.toNat % 4 = 0 ∧
    (ipLoaded (List.replicate 40 1)).ibufLen.toNat % 4 = 0 ∧ (ipLoaded (List.replicate 40 1)).ibufLen.toNat ≤ 40 ∧
    (ipLoaded (List.replicate 41 1)).ibufLen.toNat % 4 ≠ 0 ∧ 40 < (ipLoaded (List.replicate 44 1)).ibufLen.toNat ∧
    State.reset.ipV = false := by decide

/-- The output of a fresh packet, loaded into IBUF. -/
theorem witness_IpSerializeThenParseRecoversPacket :
    ∃ t, exec .ipSerialize (ipReady 0) = .next t ∧ t.status = .ok ∧ (ipReady 0).ip.opt.length % 4 = 0 ∧
      (ipReady 0).ip.opt.length ≤ 40 ∧
      ∀ i, i < t.obufLen.toNat →
        Memory.read ({ State.reset with ibuf := t.obuf, ibufLen := t.obufLen } : State).ibuf i = Memory.read t.obuf i :=
  ⟨_, rfl, rfl, by decide, by decide, fun _ _ => rfl⟩

theorem witness_IpParseThenSerializeReproducesPacket :
    ∃ t, exec .ipParse (loaded h0) = .next t ∧ t.status = .ok :=
  ⟨after .ipParse (loaded h0), rfl, by decide⟩

/-- The least and the largest word count, and the sum V-CK-08 states for its header. -/
theorem witness_ChecksumIsSingleFold :
    6 ≤ 6 ∧ 30 ≤ 30 ∧
    (((List.range 30).filter fun k => k != 5).map fun k => (headerWord (0x4F :: List.replicate 59 0xFF) k).toNat).sum
      = 0x1C4FE3 := by decide

/-- A header without and one with a carry left after the fold (V-CK-01, V-CK-05). -/
theorem witness_ChecksumVersusFullFold :
    (foldOnce (ckSum h0 10)).toNat ≤ 0xFFFF ∧ 0xFFFF < (foldOnce (ckSum carryHeader 10)).toNat := by decide

/-- Two headers that differ in word 5 alone. -/
theorem witness_ChecksumIgnoresItsOwnWord :
    h0 ≠ h0.set 11 0xE6 ∧ ∀ k, k < 10 → k ≠ 5 → headerWord h0 k = headerWord (h0.set 11 0xE6) k := by decide

/-- The headers of V-CK-01 and V-CK-11: words 1 and 8 exchanged. -/
theorem witness_ChecksumIgnoresWordOrder :
    (((List.range 10).filter fun k => k != 5).map (headerWord h0)).Perm
      (((List.range 10).filter fun k => k != 5).map (headerWord ((h0.set 3 0).set 17 0x14))) := by decide

/-- 19 bytes, IHL 4, IHL 6 with 20 bytes, and H0. -/
theorem witness_IpCksumWritesChecksum :
    (loaded (h0.take 19)).ibufLen.toNat < 20 ∧
    (20 ≤ (loaded (h0First 0x44)).ibufLen.toNat ∧ ((byteAt (input (loaded (h0First 0x44))) 0).extractLsb' 0 4).toNat < 5) ∧
    (loaded (h0First 0x46)).ibufLen.toNat < ((byteAt (input (loaded (h0First 0x46))) 0).extractLsb' 0 4).toNat * 4 ∧
    (5 ≤ ((byteAt (input (loaded h0)) 0).extractLsb' 0 4).toNat ∧
      ((byteAt (input (loaded h0)) 0).extractLsb' 0 4).toNat * 4 ≤ (loaded h0).ibufLen.toNat) := by decide

theorem witness_PiCreateBuildsOption :
    input (piReady 0xFF) = (fixedBytes 16 p16).toList ∧ (piReady 0xFF).operand.toNat ≤ 0xFF ∧
    (loaded (p16.take 15)).ibufLen.toNat ≠ 16 ∧ (piReady 0x100).ibufLen.toNat = 16 ∧
    0xFF < (piReady 0x100).operand.toNat := by decide

/-- Both values of `sel`, constructed and not. -/
theorem witness_PiSerializeWritesOption :
    (piReady 0).piV = true ∧ (piReady 0).raV = false ∧ (raReady 0).raV = true ∧ (raReady 0).piV = false := by decide

/-- OPERAND at 1 and above 1, and the flag byte with L cleared. -/
theorem witness_PiFlagSetters :
    (piReady 0).piV = true ∧ (piReady 0).operand.toNat ≤ 1 ∧
    FlagWritten 7 ((piReady 0).operand.getLsbD 0) (piReady 0).pi.flags 0x40 ∧ (raReady 1).raV = true ∧
    FlagWritten 5 ((raReady 1).operand.getLsbD 0) (raReady 1).ra.pi.flags 0xE0 ∧ 1 < (piReady 2).operand.toNat ∧
    State.reset.piV = false ∧ State.reset.raV = false :=
  ⟨rfl, by decide, fun j hj => by revert j; decide, rfl, fun j hj => by revert j; decide, by decide, rfl, rfl⟩

theorem witness_PiLifetimeSetters :
    (piReady 0).piV = true ∧ (raReady 0).raV = true ∧ State.reset.piV = false ∧ State.reset.raV = false := by decide

theorem witness_PiPrefixSetters :
    (piReady 0xFF).piV = true ∧ (piReady 0xFF).operand.toNat ≤ 0xFF ∧ 0xFF < (raReady 0x100).operand.toNat ∧
    input (raReady 0) = (fixedBytes 16 p16).toList ∧ (loaded (p16.take 15)).ibufLen.toNat ≠ 16 := by decide

theorem witness_RaCreateBuildsMessage :
    input (loaded p16) = (fixedBytes 16 p16).toList ∧ (loaded (p16 ++ [0])).ibufLen.toNat ≠ 16 := by decide

theorem witness_RaSerializeWritesMessage : (raReady 0).raV = true ∧ State.reset.raV = false := by decide

theorem witness_RaOutputEmbedsPrefixOption : (raReady 0).raV = true := by decide

theorem witness_RaFlagSetters :
    (raReady 1).raV = true ∧ (raReady 1).operand.toNat ≤ 1 ∧
    FlagWritten 7 ((raReady 1).operand.getLsbD 0) (raReady 1).ra.flags 0x80 ∧ 1 < (raReady 2).operand.toNat ∧
    State.reset.raV = false :=
  ⟨rfl, by decide, fun j hj => by revert j; decide, by decide, rfl⟩

theorem witness_RaNumericSetters :
    (raReady 0xFF).raV = true ∧ (raReady 0xFF).operand.toNat ≤ 0xFF ∧ 0xFF < (raReady 0x100).operand.toNat ∧
    (raReady 0xFFFF).operand.toNat ≤ 0xFFFF ∧ 0xFFFF < (raReady 0x10000).operand.toNat ∧ State.reset.raV = false := by
  decide

theorem witness_RegisterMapReads : (ipReady 0).ip.opt.length ≤ 40 ∧ (List.replicate 40 (1 : Byte)).length ≤ 40 := by decide

theorem witness_AddressRegistersAreBigEndian : (0 : Nat) < 4 ∧ (3 : Nat) < 4 := by decide

/-- IBUF_LEN at a value every capacity admits and at one no capacity admits; the register beside CMD and the last offset. -/
theorem witness_OnlyThreeRegistersAreWritable :
    (60#32).toNat ≤ Config.bufMax ∧ Config.bufMax < (0xFFFFFFFF#32).toNat ∧
    ((0x010#32).toNat < 0x01000000 ∧ (0x010 : Word) ≠ 0x004#32 ∧ (0x010 : Word) ≠ 0x008#32 ∧ (0x010 : Word) ≠ 0x00C#32) ∧
    (0x00FFFFFF#32).toNat < 0x01000000 :=
  ⟨bufMax_ge, lt_of_le_of_lt bufMax_le (by decide), by decide, by decide⟩

/-- A misaligned offset, both ends of every gap of the map, and both ends of the unmapped regions. -/
theorem witness_MisalignedAndUnmappedAccesses :
    (0x006#32).toNat % 4 ≠ 0 ∧
    (0x01C < (0x020#32).toNat ∧ (0x03C#32).toNat < 0x040) ∧ (0x058 < (0x05C#32).toNat ∧ (0x07C#32).toNat < 0x080) ∧
    (0x0AC < (0x0B0#32).toNat ∧ (0x0FC#32).toNat < 0x100) ∧ (0x11C < (0x120#32).toNat ∧ (0x13C#32).toNat < 0x140) ∧
    (0x15C < (0x160#32).toNat ∧ (0x17C#32).toNat < 0x180) ∧
    (0x190 < (0x194#32).toNat ∧ (0x00FFFFFC#32).toNat < 0x01000000) ∧
    0x06000000 ≤ (0x06000000#32).toNat ∧ 0x06000000 ≤ (0xFFFFFFFF#32).toNat := by decide

/-- The first and the last IBUF offset, and both ends of the read-only regions. -/
theorem witness_ByteWritesReachOnlyIbuf :
    ((0x01000000#32).toNat = 0x01000000 + 0 ∧ 0 < Config.bufMax) ∧
    ((0x01FFFFFF#32).toNat = 0x01000000 + 0xFFFFFF ∧ Config.bufMax ≤ 0xFFFFFF) ∧
    (0x02000000 ≤ (0x02000000#32).toNat ∧ (0x05FFFFFF#32).toNat < 0x06000000) :=
  ⟨⟨by decide, lt_of_lt_of_le (by decide) bufMax_ge⟩, ⟨by decide, le_trans bufMax_le (by decide)⟩, by decide⟩

theorem witness_ByteReadsFollowR45 :
    (0x01000000#32).toNat = 0x01000000 + 0 ∧ (0x02FFFFFF#32).toNat = 0x02000000 + 0xFFFFFF ∧
    (0x03000000#32).toNat = 0x03000000 + 0 ∧ (0x04000027#32).toNat = 0x04000000 + 0x27 ∧
    (0x05FFFFFF#32).toNat = 0x05000000 + 0xFFFFFF ∧ 0xFFFFFF < 0x1000000 := by decide

/-- No output, and one of the most bytes that every capacity admits. -/
theorem witness_ReadsHaveNoSideEffect :
    State.reset.obufLen.toNat ≤ Config.obufMax ∧
    ({ State.reset with obufLen := 120 } : State).obufLen.toNat ≤ Config.obufMax :=
  ⟨Nat.zero_le _, show 120 ≤ Config.bufMax + 60 from Nat.add_le_add_right bufMax_ge 60⟩

end Sys2Proof.Tests
end

/-! ## No unit reads another unit's state

R2. `State.withOthers` replaces the sets a command does not act on; that replacement changes neither the code the command
raises nor what it commits, and it commutes with each write. -/

namespace Sys2Proof.Machine

variable (s o : State)

/-! ### What a command reads is not replaced -/

@[simp] theorem State.withOthers_operand (k : Target) : (s.withOthers k o).operand = s.operand := rfl

@[simp] theorem State.input_withOthers (k : Target) : input (s.withOthers k o) = input s :=
  input_congr rfl rfl rfl

/-- A PI command finds the set its `sel` selects as it was (R61). -/
@[simp] theorem State.piSel_withOthers (x : PiSel) : (s.withOthers (PiSel.target x) o).piSel x = s.piSel x := by
  cases x <;> rfl

@[simp] theorem State.vSel_withOthers (x : PiSel) : (s.withOthers (PiSel.target x) o).vSel x = s.vSel x := by
  cases x <;> rfl

/-! ### The replacement commutes with the writes -/

theorem State.setStatus_withOthers (k : Target) (c : Status) :
    (s.withOthers k o).setStatus c = (s.setStatus c).withOthers k o := rfl

@[simp] theorem State.setPiSel_withOthers (x : PiSel) (p : PiSet) :
    (s.withOthers (PiSel.target x) o).setPiSel x p = (s.setPiSel x p).withOthers (PiSel.target x) o := by
  cases x <;> rfl

/-! ### Commands -/

/-- The checks of a command read its inputs and its own set alone. -/
theorem raised_withOthers (i : Instr) : raised (s.withOthers (target i) o) i = raised s i := by
  cases i with
  | piSerialize x | piSetOnlink x | piSetAuto x | piSetRouter x | piSetValidLt x | piSetPrefLt x | piSetPlen x
  | piSetPrefix x => exact congrArg (checkValid · _) (s.vSel_withOthers o x)
  | _ => rfl

/-- What a command commits comes from its inputs and its own set alone, and leaves the replaced sets as they are. -/
theorem effect_withOthers (i : Instr) :
    effect (s.withOthers (target i) o) i = (effect s i).withOthers (target i) o := by
  cases i with
  | ethSerialize | ipSerialize | raSerialize => exact emit_withOthers s o _ _
  | piSerialize x => simp only [effect, target, State.piSel_withOthers, emit_withOthers]
  | piSetOnlink x | piSetAuto x | piSetRouter x | piSetValidLt x | piSetPrefLt x | piSetPlen x | piSetPrefix x =>
    simp only [effect, target, piFlagged, State.piSel_withOthers, State.withOthers_operand, State.input_withOthers,
      State.setPiSel_withOthers]
  | _ => rfl

/-- Settles O19: with the other sets replaced, a command raises the same code or commits the same effect. -/
theorem unitsDoNotReadEachOther : Obligations.UnitsDoNotReadEachOther := by
  intro i s t o h
  obtain ⟨c, hraise, rfl⟩ | ⟨hpass, rfl⟩ := exec_next h
  · rw [← State.setStatus_withOthers]
    exact exec_of_failure ((raised_withOthers s o i).trans hraise)
  · rw [← State.setStatus_withOthers, ← effect_withOthers]
    exact exec_of_success ((raised_withOthers s o i).trans hpass)

end Sys2Proof.Machine

/-! ## The invariant

R19 to R33, R59. The invariant speaks of neither STATUS, CMD, OPERAND, CKSUM, the host's side nor the draw, so a change of
these alone keeps it as it stands (`{ h with }`). Each write of the shared operations keeps it under its own bound; a
command's checks provide the bound. -/

namespace Sys2Proof.Machine

/-! ### Reset -/

/-- Settles O1: every field of the reset state by its definition (R38). -/
theorem resetValues : Obligations.ResetValues :=
  ⟨rfl, rfl, rfl, rfl, rfl, rfl, Memory.read_nil, Memory.read_nil, rfl, rfl, rfl, rfl, rfl, rfl, rfl, rfl, rfl⟩

/-- Settles O24: at reset both buffers and all byte sequences are empty and every set is zero. -/
theorem invariantAtReset : Obligations.InvariantAtReset where
  ibufWf := State.reset_buffers_wf.1
  ibufCells := nofun
  ibufLenLe := Nat.zero_le _
  obufWf := State.reset_buffers_wf.2
  obufCells := nofun
  obufLenLe := Nat.zero_le _
  obufWritten := fun _ hi => absurd hi (Nat.not_lt_zero _)
  ethPayLe := le_trans (by decide) bufMax_ge
  ipOptMod := rfl
  ipOptLe := Nat.zero_le _
  ipPayLe := Nat.zero_le _
  piFlagsLow := rfl
  raFlagsLow := rfl
  raPiFlagsLow := rfl
  ethFresh := fun _ => rfl
  ipFresh := fun _ => rfl
  piFresh := fun _ => rfl
  raFresh := fun _ => rfl

/-! ### The writes of the shared operations -/

variable {s : State}

/-- Output that fits OBUF, written whole, leaves no unwritten cell below OBUF_LEN (R22, R59). -/
theorem State.Inv.emit (h : s.Inv) {o : Bytes} (ho : o.length ≤ Config.obufMax) : (s.emit o).Inv :=
  have hlen : (s.emit o).obufLen.toNat ≤ o.length := by
    rw [State.emit_obufLen, BitVec.toNat_ofNat]
    exact Nat.mod_le _ _
  { h with
    obufWf := Memory.wf_writeBytes h.obufWf 0 o
    obufCells := fun c hc => by
      rcases Memory.mem_writeBytes hc with hlt | hmem
      · omega
      · exact h.obufCells c hmem
    obufLenLe := le_trans hlen ho
    obufWritten := fun i hi => by
      rw [read_emit, List.getElem?_eq_getElem (lt_of_lt_of_le hi hlen)]
      rfl }

theorem State.Inv.setIp (h : s.Inv) (hv : s.ipV = true) {p : IpSet} (hmod : p.opt.length % 4 = 0)
    (hopt : p.opt.length ≤ 40) (hpay : p.pay.length ≤ Config.bufMax) : (s.setIp p).Inv :=
  { h with
    ipOptMod := hmod
    ipOptLe := hopt
    ipPayLe := hpay
    ipFresh := fun hf => Bool.noConfusion (hv.symm.trans hf) }

/-- A Prefix Information set keeps bits 4:0 of its flags 0, wherever it is held (R31). -/
theorem State.Inv.piSelFlagsLow (h : s.Inv) : ∀ x, (s.piSel x).flags &&& 0x1F#8 = 0#8
  | .standalone => h.piFlagsLow
  | .routerAdv => h.raPiFlagsLow

theorem State.Inv.setPiSel (h : s.Inv) {p : PiSet} (hp : p.flags &&& 0x1F#8 = 0#8) :
    ∀ x, s.vSel x = true → (s.setPiSel x p).Inv
  | .standalone, hv => { h with piFlagsLow := hp, piFresh := fun hf => Bool.noConfusion (hv.symm.trans hf) }
  | .routerAdv, hv => { h with raPiFlagsLow := hp, raFresh := fun hf => Bool.noConfusion (hv.symm.trans hf) }

theorem State.Inv.setRa (h : s.Inv) (hv : s.raV = true) {r : RaSet} (hr : r.flags &&& 0x1F#8 = 0#8)
    (hpi : r.pi.flags &&& 0x1F#8 = 0#8) : (s.setRa r).Inv :=
  { h with
    raFlagsLow := hr
    raPiFlagsLow := hpi
    raFresh := fun hf => Bool.noConfusion (hv.symm.trans hf) }

/-- A command that writes one of the bits 7, 6, 5 of a PI set's flags (R116 to R118). -/
theorem State.Inv.setPiFlag (h : s.Inv) {x : PiSel} (hv : s.vSel x = true) {n : Nat} (h5 : 5 ≤ n) (h7 : n ≤ 7) :
    (piFlagged s x n).Inv :=
  h.setPiSel ((setFlag_low _ _ h5 h7).trans (h.piSelFlagsLow x)) x hv

/-- A command that writes one of the bits 7, 6, 5 of RA.FLAGS (R127 to R129). -/
theorem State.Inv.setRaFlag (h : s.Inv) (hv : s.raV = true) {n : Nat} (h5 : 5 ≤ n) (h7 : n ≤ 7) :
    (raFlagged s n).Inv :=
  h.setRa hv ((setFlag_low _ _ h5 h7).trans h.raFlagsLow) h.raPiFlagsLow

/-! ### The building commands -/

/-- ETH_PARSE takes its payload from behind a whole header, within the input (R26, R87). -/
theorem State.Inv.ethParse (h : s.Inv) (hp : raised s .ethParse = none) : (effect s .ethParse).Inv := by
  have hlen : ¬ inputLen s < 14 := fun hlt => nomatch (if_pos hlt).symm.trans hp
  have hinput : (input s).length = inputLen s := input_length s
  have hpay : (ethOfBytes (input s)).pay.length = (input s).length - 14 := slice_length le_rfl
  have hbuf : inputLen s ≤ Config.bufMax := h.ibufLenLe
  exact { h with
    ethPayLe := show (ethOfBytes (input s)).pay.length + 14 ≤ Config.bufMax by omega
    ethFresh := nofun }

/-- The defaults of R31 leave bits 4:0 of the flags 0. -/
theorem piCreated_flagsLow (a : Vector Byte 16) (plen : Byte) : (piCreated a plen).flags &&& 0x1F#8 = 0#8 := by
  show 0xC0#8 &&& 0x1F#8 = 0#8
  decide

/-- The bounds that the checks of IP_PARSE put on the packet's lengths (R90, R91). -/
theorem ipParseError_none {b : Bytes} {len : Nat} (h : ipParseError b len = none) :
    5 ≤ ihlOf b ∧ ihlOf b * 4 ≤ totalLenOf b ∧ totalLenOf b ≤ len := by
  unfold ipParseError at h
  split at h
  · cases h
  split at h
  · cases h
  split at h
  · cases h
  split at h
  · cases h
  · omega

theorem ihlOf_le (b : Bytes) : ihlOf b ≤ 15 := Nat.le_of_lt_succ (BitVec.isLt _)

/-- IP_PARSE reads at most 40 bytes of options, whole words, and a payload within the input (R28, R29). -/
theorem State.Inv.ipParse (h : s.Inv) (hp : raised s .ipParse = none) : (effect s .ipParse).Inv := by
  obtain ⟨h5, hhl, htl⟩ := ipParseError_none hp
  have h15 := ihlOf_le (input s)
  have hlen : (input s).length = inputLen s := input_length s
  have hopt : (ipOfBytes (input s)).opt.length = ihlOf (input s) * 4 - 20 := slice_length (by omega)
  have hpay : (ipOfBytes (input s)).pay.length = totalLenOf (input s) - ihlOf (input s) * 4 :=
    slice_length (by omega)
  have hbuf : inputLen s ≤ Config.bufMax := h.ibufLenLe
  exact { h with
    ipOptMod := show (ipOfBytes (input s)).opt.length % 4 = 0 by omega
    ipOptLe := show (ipOfBytes (input s)).opt.length ≤ 40 by omega
    ipPayLe := show (ipOfBytes (input s)).pay.length ≤ Config.bufMax by omega
    ipFresh := nofun }

/-- The check of IP_SET_OPTIONS is R29's bound on the input (R101). -/
theorem State.Inv.ipSetOptions (h : s.Inv) (hp : raised s .ipSetOptions = none) : (effect s .ipSetOptions).Inv := by
  obtain ⟨hv, hcheck⟩ := checkValid_none hp
  have hlen : (input s).length = inputLen s := input_length s
  have hbound : ¬ (inputLen s % 4 ≠ 0 ∨ inputLen s > 40) := fun hbad => nomatch (if_pos hbad).symm.trans hcheck
  exact h.setIp hv (show (input s).length % 4 = 0 by omega) (show (input s).length ≤ 40 by omega) h.ipPayLe

/-! ### Commands and steps -/

/-- What a command commits, once its checks have passed, keeps the invariant. -/
theorem State.Inv.of_effect (h : s.Inv) {i : Instr} (hp : raised s i = none) : (effect s i).Inv := by
  cases i with
  | ethParse => exact h.ethParse hp
  | ipParse => exact h.ipParse hp
  | ipNew =>
    exact { h with ipOptMod := rfl, ipOptLe := Nat.zero_le _, ipPayLe := Nat.zero_le _, ipFresh := nofun }
  | piCreate => exact { h with piFlagsLow := piCreated_flagsLow _ _, piFresh := nofun }
  | raCreate => exact { h with raFlagsLow := BitVec.zero_and, raPiFlagsLow := piCreated_flagsLow _ _, raFresh := nofun }
  | ipCksum => exact { h with }
  | ethSerialize =>
    have := h.ethPayLe
    exact h.emit (by rw [ethBytes_length, obufMax_eq]; omega)
  | ipSerialize =>
    have := h.ipOptLe
    have := h.ipPayLe
    exact h.emit (by rw [ipBytes_length, obufMax_eq, IpSet.totalLen]; omega)
  | piSerialize x => exact h.emit (by rw [piBytes_length, obufMax_eq]; omega)
  | raSerialize => exact h.emit (by rw [raBytes_length, obufMax_eq]; omega)
  | ipSetTos | ipSetId | ipSetTtl | ipSetProto | ipSetSrc | ipSetDst =>
    exact h.setIp (checkValid_none hp).1 h.ipOptMod h.ipOptLe h.ipPayLe
  | ipSetOptions => exact h.ipSetOptions hp
  | ipSetPayload =>
    exact h.setIp (checkValid_none hp).1 h.ipOptMod h.ipOptLe (by rw [input_length]; exact h.ibufLenLe)
  | piSetOnlink x | piSetAuto x | piSetRouter x =>
    exact h.setPiFlag (checkValid_none hp).1 (by decide) (by decide)
  | piSetValidLt x | piSetPrefLt x | piSetPlen x | piSetPrefix x =>
    refine h.setPiSel ?_ x (checkValid_none hp).1
    exact h.piSelFlagsLow x
  | raSetManaged | raSetOther | raSetHomeagent =>
    exact h.setRaFlag (checkValid_none hp).1 (by decide) (by decide)
  | raSetChl | raSetDeflt | raSetReach | raSetRetrans =>
    exact h.setRa (checkValid_none hp).1 h.raFlagsLow h.raPiFlagsLow

theorem State.Inv.of_exec (h : s.Inv) {i : Instr} {t : State} (ht : exec i s = .next t) : t.Inv := by
  obtain ⟨c, -, rfl⟩ | ⟨hpass, rfl⟩ := exec_next ht
  · exact { h with }
  · exact { h.of_effect hpass with }

/-- Writes of IBUF cells stay below `BUF_MAX` (R19, R44). -/
theorem State.Inv.writeIbuf (h : s.Inv) (cells : List Host.Cell) :
    State.Inv { s with ibuf := Memory.writeCells Config.bufMax s.ibuf cells } :=
  { h with
    ibufWf := Memory.wf_writeCells h.ibufWf _ cells
    ibufCells := fun c hc => (Memory.mem_writeCells hc).elim id (h.ibufCells c) }

/-- Settles O25, by the cases of `step_next`: a command, a host write, the reset event, or a change of the host's side. -/
theorem invariantKeptByEveryStep : Obligations.InvariantKeptByEveryStep := by
  intro s t h hstep
  have hadv : s.advance.Inv := { h with }
  rcases step_next hstep with ⟨w, i, -, hexec⟩ | ⟨w, rfl⟩ | ⟨v, rfl⟩ | ⟨v, hv, rfl⟩ | ⟨cells, rfl⟩ | rfl | ⟨hs, d, rfl⟩
  · exact State.Inv.of_exec (s := { s.advance with cmd := w }) { h with } hexec
  · exact { h with }
  · exact { h with }
  · exact { h with ibufLenLe := hv }
  · exact hadv.writeIbuf cells
  · exact { invariantAtReset with }
  · exact { h with }

end Sys2Proof.Machine

/-! ## What a command leaves unchanged

R17 to R24, R33, R49, R103. A command that raises a code changes STATUS alone, so each statement is about what the others
commit (`effect`). -/

namespace Sys2Proof.Machine

/-- Taking the other sets from the state itself replaces nothing. -/
theorem State.withOthers_self (s : State) (k : Target) : s.withOthers k s = s := by
  simp [State.withOthers]

/-- The sets a command does not act on, their valid bits and CKSUM come through as they were: of the state with those sets
replaced by themselves, `unitsDoNotReadEachOther` says so. -/
theorem exec_withOthers {i : Instr} {s t : State} (h : exec i s = .next t) : t = t.withOthers (target i) s := by
  have hframe := unitsDoNotReadEachOther i s t s h
  rw [State.withOthers_self, h] at hframe
  exact Host.Outcome.next.inj hframe

/-- Settles O14: a command writes neither its inputs nor the host's side. -/
theorem commandsKeepTheirInputs : Obligations.CommandsKeepTheirInputs := by
  intro i s t h
  obtain ⟨c, -, rfl⟩ | ⟨-, rfl⟩ := exec_next h
  · exact ⟨rfl, rfl, rfl, rfl, rfl, rfl⟩
  · cases i <;> simp [effect, piFlagged, raFlagged]

/-- Settles O16: of the commands that commit, the five builders set their own bit and the rest write none. -/
theorem onlyBuildersSetValidBits : Obligations.OnlyBuildersSetValidBits := by
  intro i s t h
  obtain ⟨c, -, rfl⟩ | ⟨-, rfl⟩ := exec_next h
  · exact ⟨.inl rfl, .inl rfl, .inl rfl, .inl rfl⟩
  · cases i with
    | ethParse => exact ⟨.inr ⟨rfl, rfl⟩, .inl rfl, .inl rfl, .inl rfl⟩
    | ipParse => exact ⟨.inl rfl, .inr ⟨.inl rfl, rfl⟩, .inl rfl, .inl rfl⟩
    | ipNew => exact ⟨.inl rfl, .inr ⟨.inr rfl, rfl⟩, .inl rfl, .inl rfl⟩
    | piCreate => exact ⟨.inl rfl, .inl rfl, .inr ⟨rfl, rfl⟩, .inl rfl⟩
    | raCreate => exact ⟨.inl rfl, .inl rfl, .inl rfl, .inr ⟨rfl, rfl⟩⟩
    | _ => simp [effect, piFlagged, raFlagged]

/-- Only IP_CKSUM writes CKSUM (R23). -/
theorem effect_cksum (s : State) {i : Instr} (h : i ≠ .ipCksum) : (effect s i).cksum = s.cksum := by
  cases i with
  | ipCksum => exact absurd rfl h
  | _ => simp [effect, piFlagged, raFlagged]

/-- Only the serialize commands write the output (R21, R22). -/
theorem effect_output (s : State) {i : Instr} (h : isSerialize i = false) :
    (effect s i).obuf = s.obuf ∧ (effect s i).obufLen = s.obufLen := by
  cases i with
  | ethSerialize | ipSerialize | piSerialize x | raSerialize => cases h
  | _ => simp [effect, piFlagged, raFlagged]

/-- No setter writes IP.FLAGS or IP.FRAG (R103). -/
theorem effect_flags_frag (s : State) {i : Instr} (hparse : i ≠ .ipParse) (hnew : i ≠ .ipNew) :
    (effect s i).ip.flags = s.ip.flags ∧ (effect s i).ip.frag = s.ip.frag := by
  cases i with
  | ipParse => exact absurd rfl hparse
  | ipNew => exact absurd rfl hnew
  | _ => simp [effect, piFlagged, raFlagged]

/-- Settles O17: each element by what the commands that commit leave as it was. -/
theorem readOnlyStateHasNoOtherWriter : Obligations.ReadOnlyStateHasNoOtherWriter := by
  intro i s t h
  obtain ⟨c, -, rfl⟩ | ⟨-, rfl⟩ := exec_next h
  · exact ⟨fun _ => rfl, fun _ => ⟨rfl, rfl⟩, fun _ _ => ⟨rfl, rfl⟩⟩
  · exact ⟨effect_cksum s, effect_output s, effect_flags_frag s⟩

/-- A command on RA.PI writes no other field of RA, and no valid bit (R33, R61). -/
theorem effect_routerAdv (s : State) {i : Instr} (h : i.selBit = 1#1) :
    (effect s i).ra = { s.ra with pi := (effect s i).ra.pi } ∧ (effect s i).raV = s.raV := by
  cases i with
  | piSerialize x | piSetOnlink x | piSetAuto x | piSetRouter x | piSetValidLt x | piSetPrefLt x | piSetPlen x
  | piSetPrefix x => cases x <;> exact ⟨rfl, rfl⟩
  | _ => exact absurd h (by decide)

/-- Settles O18: the sets that are not the target by `exec_withOthers`, RA's own fields by what a `.RA` command commits. -/
theorem commandsChangeOnlyTheirTarget : Obligations.CommandsChangeOnlyTheirTarget := by
  intro i s t h
  have hframe := exec_withOthers h
  refine ⟨fun hi => ⟨(congrArg State.eth hframe).trans (if_neg hi), (congrArg State.ethV hframe).trans (if_neg hi)⟩,
    fun hi => ⟨(congrArg State.ip hframe).trans (if_neg hi), (congrArg State.ipV hframe).trans (if_neg hi)⟩,
    fun hi => ⟨(congrArg State.pi hframe).trans (if_neg hi), (congrArg State.piV hframe).trans (if_neg hi)⟩,
    fun hi => ⟨(congrArg State.ra hframe).trans (if_neg hi), (congrArg State.raV hframe).trans (if_neg hi)⟩,
    fun hsel => ?_⟩
  obtain ⟨c, -, rfl⟩ | ⟨-, rfl⟩ := exec_next h
  · exact ⟨rfl, rfl⟩
  · exact effect_routerAdv s hsel

end Sys2Proof.Machine

/-! ## The register file

R34 to R37. A host address of the register region names the register its offset is listed with. -/

namespace Sys2Proof.Machine

/-- The host address names the register (R34, R41). -/
def NamesReg (a : Word) (r : Reg) : Prop := regionOf a = 0 ∧ regAt (offsetOf a) = some r

/-- A 32-bit read of a register delivers its value (R34, R52). -/
theorem delivers_regValue (s : State) {a : Word} (r : Reg) (h : NamesReg a r) : Delivers (.r32 a) s (regValue s r) := by
  have hread : read32 s a = regValue s r := by rw [read32, if_pos h.1, h.2]
  rw [← hread]
  rfl

/-! ### Reads -/

/-- IP_OPT_LEN is 6 bits wide: no length that meets R29 is cut. -/
theorem regValue_ipOptLen {s : State} (h : s.ip.opt.length ≤ 40) :
    regValue s .ipOptLen = BitVec.ofNat 32 s.ip.opt.length := by
  rw [regValue, BitVec.setWidth_ofNat_of_le_of_lt (by decide) (by omega)]

/-- IP_IHL is 4 bits wide: 40 bytes of options make the largest header, of 15 words (R29, R30). -/
theorem regValue_ipIhl {s : State} (h : s.ip.opt.length ≤ 40) :
    regValue s .ipIhl = BitVec.ofNat 32 (5 + s.ip.opt.length / 4) := by
  rw [regValue, IpSet.ihl, BitVec.setWidth_ofNat_of_le_of_lt (by decide) (by omega)]

/-- Settles O54: each offset of R34 with the register it is listed with; only the two cut lengths need an argument. -/
theorem registerMapReads : Obligations.RegisterMapReads := by
  intro s
  have reads {a : Word} (r : Reg) (h : NamesReg a r := by exact ⟨rfl, rfl⟩) := delivers_regValue s r h
  exact ⟨reads .status, reads .cmd, reads .operand, reads .ibufLen, reads .obufLen, reads .valid, reads .cksum,
    reads .bufMax, reads .ethType, reads .ethClass, reads .ethPayLen, reads .ipTos, reads .ipId, reads .ipFlags,
    reads .ipFrag, reads .ipTtl, reads .ipProto,
    fun h => ⟨regValue_ipOptLen h ▸ reads .ipOptLen, regValue_ipIhl h ▸ reads .ipIhl⟩,
    reads .ipPayLen, reads .ipTotlen, reads .piPlen, reads .piFlags, reads .piVlt, reads .piPlt,
    reads .rapiPlen, reads .rapiFlags, reads .rapiVlt, reads .rapiPlt, reads .raChl, reads .raFlags, reads .raDeflt,
    reads .raReach, reads .raRetrans⟩

/-! ### Byte order -/

/-- The word at index `i` of a byte sequence shows the four bytes from there on, in order (R11, R35). -/
theorem bytes32_be32At {bs : Bytes} {i : Nat} (h : i + 4 ≤ bs.length) : bytes32 (be32At bs i) = (bs.drop i).take 4 := by
  rw [be32At, bytes32_be32, byteAt_eq_getElem, byteAt_eq_getElem, byteAt_eq_getElem, byteAt_eq_getElem,
    List.drop_eq_getElem_cons, List.drop_eq_getElem_cons, List.drop_eq_getElem_cons, List.drop_eq_getElem_cons]
  · rfl
  all_goals omega

/-- The half word at the start of a byte sequence shows its first two bytes, after two zero bytes (R11, R35). -/
theorem bytes32_be16At {bs : Bytes} (h : 2 ≤ bs.length) :
    bytes32 ((be16At bs 0).setWidth 32) = 0 :: 0 :: bs.take 2 := by
  rw [be16At, bytes32_be16]
  match bs, h with
  | _ :: _ :: _, _ => rfl

/-- The LO register of a MAC field shows its last four bytes. -/
theorem bytes32_macLo (m : Vector Byte 6) : bytes32 (be32At m.toList 2) = m.toList.drop 2 := by
  rw [bytes32_be32At (by simp)]
  exact List.take_of_length_le (by simp)

/-- The HI register of a MAC field shows its first two bytes. -/
theorem bytes32_macHi (m : Vector Byte 6) :
    bytes32 ((be16At m.toList 0).setWidth 32) = 0 :: 0 :: m.toList.take 2 := bytes32_be16At (by simp)

/-- The register of an IPv4 address shows its four bytes. -/
theorem bytes32_addr4 (a : Vector Byte 4) : bytes32 (be32At a.toList 0) = a.toList := by
  rw [bytes32_be32At (by simp), List.drop_zero]
  exact List.take_of_length_le (by simp)

/-- Register `k` of a prefix shows its bytes from `4 * k` on. -/
theorem bytes32_prefix (p : Vector Byte 16) {k : Nat} (hk : k < 4) :
    bytes32 (be32At p.toList (4 * k)) = (p.toList.drop (4 * k)).take 4 :=
  bytes32_be32At (by rw [Vector.length_toList]; omega)

/-- The addresses of the prefix registers (R34). -/
theorem namesReg_prefix : ∀ k : Fin 4, NamesReg (BitVec.ofNat 32 (0x100 + 4 * k.val)) (.piPrefix k) ∧
    NamesReg (BitVec.ofNat 32 (0x140 + 4 * k.val)) (.rapiPrefix k) := by
  unfold NamesReg
  decide

/-- Settles O55: each register delivers its value, whose bytes the lemmas on its field give. -/
theorem addressRegistersAreBigEndian : Obligations.AddressRegistersAreBigEndian := by
  intro s
  have reads {a : Word} (r : Reg) (h : NamesReg a r := by exact ⟨rfl, rfl⟩) := delivers_regValue s r h
  refine ⟨_, _, _, _, _, _, ⟨reads .ethDstHi, bytes32_macHi _⟩, ⟨reads .ethDstLo, bytes32_macLo _⟩,
    ⟨reads .ethSrcHi, bytes32_macHi _⟩, ⟨reads .ethSrcLo, bytes32_macLo _⟩,
    ⟨reads .ipSrc, bytes32_addr4 _⟩, ⟨reads .ipDst, bytes32_addr4 _⟩, fun k hk => ?_⟩
  obtain ⟨hpi, hrapi⟩ := namesReg_prefix ⟨k, hk⟩
  exact ⟨_, _, ⟨reads _ hpi, bytes32_prefix _ hk⟩, ⟨reads _ hrapi, bytes32_prefix _ hk⟩⟩

/-! ### Writes -/

/-- A register other than CMD, OPERAND and IBUF_LEN takes no write (R37). -/
theorem writeReg_readOnly {r : Reg} (hcmd : r ≠ .cmd) (hop : r ≠ .operand) (hlen : r ≠ .ibufLen) (v : Word) (s : State) :
    writeReg r v s = .next s := by
  unfold writeReg
  split
  · exact absurd rfl hcmd
  · exact absurd rfl hop
  · exact absurd rfl hlen
  · rfl

/-- A register is listed at the offset it is found at. -/
theorem mem_registerMap_of_regAt {off : Nat} {r : Reg} (h : regAt off = some r) : (off, r) ∈ registerMap := by
  unfold regAt at h
  split at h
  · obtain ⟨l₁, l₂, hmap, -⟩ := List.lookup_eq_some_iff.mp h
    rw [hmap]
    exact List.mem_append_right _ List.mem_cons_self
  · cases h

/-- The three writable registers are listed at no other offset (R34, R37). -/
theorem registerMap_writable : ∀ p ∈ registerMap,
    (p.2 = .cmd → p.1 = 0x004) ∧ (p.2 = .operand → p.1 = 0x008) ∧ (p.2 = .ibufLen → p.1 = 0x00C) := by
  decide

/-- The 32-bit form of `write8_readOnly` (R37, R42, R46). -/
theorem write32_readOnly {a : Word} {s : State} (v : Word) (h0 : regionOf a = 0)
    (h : ∀ r w, regAt (offsetOf a) = some r → writeReg r w s = .next s) : write32 a v s = .next s := by
  rw [write32, if_pos h0]
  split
  · exact h _ _ ‹_›
  · rfl

/-- A 32-bit write to a register is the write of that register (R37). -/
theorem write32_reg {a : Word} {r : Reg} (h : NamesReg a r) (v : Word) (s : State) : write32 a v s = writeReg r v s := by
  rw [write32, if_pos h.1, h.2]

/-- Settles O56: the three registers by `writeReg`, every other offset because none of the three is listed there. -/
theorem onlyThreeRegistersAreWritable : Obligations.OnlyThreeRegistersAreWritable := by
  intro s a v
  refine ⟨?_, ?_, ?_, fun hregion hcmd hop hlen => ?_⟩
  · rintro rfl
    exact write32_reg (r := .operand) ⟨rfl, rfl⟩ v s
  · rintro rfl hle
    exact (write32_reg (r := .ibufLen) ⟨rfl, rfl⟩ v s).trans (congrArg _ (if_pos hle))
  · rintro rfl hgt
    exact (write32_reg (r := .ibufLen) ⟨rfl, rfl⟩ v s).trans (congrArg _ (if_neg (Nat.not_le.mpr hgt)))
  · have h0 : regionOf a = 0 := by rw [regionOf_eq]; omega
    have hoff : offsetOf a = a.toNat := by rw [offsetOf_eq]; omega
    have elsewhere (b : Word) (hb : a ≠ b) : offsetOf a ≠ b.toNat :=
      fun heq => hb (BitVec.eq_of_toNat_eq (hoff.symm.trans heq))
    have hignored : ∀ r w, regAt (offsetOf a) = some r → writeReg r w s = .next s := by
      intro r w hr
      obtain ⟨hcmdOff, hopOff, hlenOff⟩ := registerMap_writable _ (mem_registerMap_of_regAt hr)
      exact writeReg_readOnly (fun h => elsewhere _ hcmd (hcmdOff h)) (fun h => elsewhere _ hop (hopOff h))
        (fun h => elsewhere _ hlen (hlenOff h)) w s
    exact ⟨write32_readOnly v h0 hignored, write8_readOnly v h0 hignored⟩

end Sys2Proof.Machine

/-! ## The host address space

R41 to R46, R52, R70. A host address is its region and its offset. A byte region gives the bytes it holds to 8-bit reads; a
byte write reaches the IBUF cells below `BUF_MAX` and nothing else. -/

namespace Sys2Proof.Machine

variable {s : State} {a : Word}

/-- Bits 31:24 of a host address are its region and bits 23:0 its offset (R41). -/
theorem regionOf_offsetOf {k i : Nat} (ha : a.toNat = k * 0x1000000 + i) (hi : i < 0x1000000) :
    regionOf a = k ∧ offsetOf a = i := by
  rw [regionOf_eq, offsetOf_eq]
  omega

/-! ### Where nothing is mapped -/

/-- No register of R34 is listed at the offset: it is misaligned, past the last register, or in a gap of the map. -/
def Unlisted (off : Nat) : Prop :=
  off % 4 ≠ 0 ∨ 0x190 < off ∨ (0x01C < off ∧ off < 0x040) ∨ (0x058 < off ∧ off < 0x080) ∨
    (0x0AC < off ∧ off < 0x100) ∨ (0x11C < off ∧ off < 0x140) ∨ (0x15C < off ∧ off < 0x180)

theorem registerMap_not_unlisted : ∀ p ∈ registerMap, ¬ Unlisted p.1 := by
  unfold Unlisted
  decide

/-- An address of the register region names no register at an unlisted offset (R42, R46). -/
theorem regAt_of_unlisted {off : Nat} (h : Unlisted off) : regAt off = none :=
  Option.eq_none_iff_forall_ne_some.mpr fun _ hr => registerMap_not_unlisted _ (mem_registerMap_of_regAt hr) h

/-- Where no register is, an access of the register region reads 0 and writes nothing, at either width (R42, R46). -/
theorem accesses_noReg (v : Word) (h0 : regionOf a = 0) (hreg : regAt (offsetOf a) = none) :
    read32 s a = 0 ∧ read8 s a = 0 ∧ write32 a v s = .next s ∧ write8 a v s = .next s := by
  have hvacuous : ∀ r w, regAt (offsetOf a) = some r → writeReg r w s = .next s :=
    fun r _ hr => nomatch hreg.symm.trans hr
  refine ⟨?_, ?_, write32_readOnly v h0 hvacuous, write8_readOnly v h0 hvacuous⟩
  · rw [read32, if_pos h0, hreg]
  · rw [read8, if_pos h0, hreg]

/-- The regions from 0x06 on hold no byte (R41). -/
theorem regionByte_unmapped (h : 6 ≤ regionOf a) : regionByte s a = none := by
  unfold regionByte
  split
  case h_6 => rfl
  all_goals omega

/-- An access of a region from 0x06 on reads 0 and writes nothing, at either width (R46). -/
theorem accesses_unmappedRegion (v : Word) (h : 6 ≤ regionOf a) :
    read32 s a = 0 ∧ read8 s a = 0 ∧ write32 a v s = .next s ∧ write8 a v s = .next s := by
  have h0 : regionOf a ≠ 0 := by omega
  have hbyte : regionByte s a = none := regionByte_unmapped h
  refine ⟨?_, ?_, writes_elsewhere v s h0 (decide_eq_false (by omega))⟩
  · rw [read32, if_neg h0, hbyte]
  · rw [read8, if_neg h0, hbyte]
    rfl

/-- Settles O57: an unlisted offset of the register region names no register, and a region from 0x06 on holds no byte. -/
theorem misalignedAndUnmappedAccesses : Obligations.MisalignedAndUnmappedAccesses := by
  intro s a v h
  have key : read32 s a = 0 ∧ read8 s a = 0 ∧ write32 a v s = .next s ∧ write8 a v s = .next s := by
    rcases h with ⟨hregion, hunlisted⟩ | hregion
    · obtain ⟨h0, hoff⟩ := regionOf_offsetOf (k := 0) (Nat.zero_add _).symm hregion
      exact accesses_noReg v h0 (regAt_of_unlisted (hoff.symm ▸ hunlisted))
    · exact accesses_unmappedRegion v (by rw [regionOf_eq]; omega)
  obtain ⟨hread32, hread8, hwrites⟩ := key
  exact ⟨hread32 ▸ rfl, hread8 ▸ rfl, hwrites⟩

/-! ### Byte writes -/

/-- A byte write to an IBUF cell stores bits 7:0 of the data (R43, R44). -/
theorem write8_ibuf (v : Word) (h1 : regionOf a = 1) (hcap : offsetOf a < Config.bufMax) :
    write8 a v s = .next { s with ibuf := Memory.write s.ibuf (offsetOf a) (v.extractLsb' 0 8) } := by
  have hcell : inIbuf a = true := decide_eq_true ⟨h1, hcap⟩
  rw [write8, if_neg (by omega), if_pos hcell]

/-- Settles O58: within the capacity `write8_ibuf` says what is stored; past it, and in the other byte regions, the address
names no IBUF cell. -/
theorem byteWritesReachOnlyIbuf : Obligations.ByteWritesReachOnlyIbuf := by
  intro s a v i hi
  refine ⟨fun ha hcap => ?_, fun ha hcap => ?_, fun hlow hhigh => ?_⟩
  · obtain ⟨h1, rfl⟩ := regionOf_offsetOf (k := 1) ha hi
    exact ⟨_, write8_ibuf v h1 hcap, Memory.read_write_same _ _ _, fun _ hj => Memory.read_write_other _ _ hj, rfl⟩
  · obtain ⟨h1, rfl⟩ := regionOf_offsetOf (k := 1) ha hi
    exact (writes_elsewhere v s (by omega) (decide_eq_false (by omega))).symm
  · have hregion : 2 ≤ regionOf a := by rw [regionOf_eq]; omega
    exact (writes_elsewhere v s (by omega) (decide_eq_false (by omega))).symm

/-! ### Byte reads -/

/-- A byte read outside the register region shows the byte there, and 0 where none is (R43, R45). -/
theorem read8_eq (s : State) (h : regionOf a ≠ 0) : read8 s a = ((regionByte s a).getD 0).setWidth 32 := if_neg h

theorem regionByte_ibuf (s : State) (h : regionOf a = 1) :
    regionByte s a = if offsetOf a < Config.bufMax then some (ibufByte s (offsetOf a)) else none := by
  simp only [regionByte, h]

theorem regionByte_obuf (s : State) (h : regionOf a = 2) :
    regionByte s a = if offsetOf a < Config.obufMax then some (obufByte s (offsetOf a)) else none := by
  simp only [regionByte, h]

theorem regionByte_ethPay (s : State) (h : regionOf a = 3) : regionByte s a = s.eth.pay[offsetOf a]? := by
  simp only [regionByte, h]

theorem regionByte_ipOpt (s : State) (h : regionOf a = 4) : regionByte s a = s.ip.opt[offsetOf a]? := by
  simp only [regionByte, h]

theorem regionByte_ipPay (s : State) (h : regionOf a = 5) : regionByte s a = s.ip.pay[offsetOf a]? := by
  simp only [regionByte, h]

/-- Settles O59: each byte region by what it holds at the offset. -/
theorem byteReadsFollowR45 : Obligations.ByteReadsFollowR45 := by
  intro s a i hi
  have delivers {b : Byte} (h0 : regionOf a ≠ 0) (hb : (regionByte s a).getD 0 = b) :
      Delivers (.r8 a) s (b.setWidth 32) := by
    rw [← hb, ← read8_eq s h0]
    rfl
  refine ⟨fun ha => ?_, fun ha => ?_, fun ha => ?_, fun ha => ?_, fun ha => ?_⟩
  · obtain ⟨hk, rfl⟩ := regionOf_offsetOf (k := 1) ha hi
    refine delivers (by omega) ?_
    rw [regionByte_ibuf s hk, apply_ite (Option.getD · 0)]
    rfl
  · obtain ⟨hk, rfl⟩ := regionOf_offsetOf (k := 2) ha hi
    refine delivers (by omega) ?_
    rw [regionByte_obuf s hk, apply_ite (Option.getD · 0)]
    rfl
  · obtain ⟨hk, rfl⟩ := regionOf_offsetOf (k := 3) ha hi
    exact delivers (by omega) (regionByte_ethPay s hk ▸ rfl)
  · obtain ⟨hk, rfl⟩ := regionOf_offsetOf (k := 4) ha hi
    exact delivers (by omega) (regionByte_ipOpt s hk ▸ rfl)
  · obtain ⟨hk, rfl⟩ := regionOf_offsetOf (k := 5) ha hi
    exact delivers (by omega) (regionByte_ipPay s hk ▸ rfl)

/-! ### READOUT -/

/-- The whole of OBUF lies within the offsets of its region (R6, R7, R41). -/
theorem obufMax_le : Config.obufMax ≤ 0x1000000 := by
  have := bufMax_le
  rw [obufMax_eq]
  omega

/-- The byte read at OBUF offset `i` shows cell `i` (R43, R45). -/
theorem read8_obuf (s : State) {i : Nat} (hi : i < Config.obufMax) :
    read8 s (0x02000000#32 + BitVec.ofNat 32 i) = (obufByte s i).setWidth 32 := by
  have hoff : i < 0x1000000 := lt_of_lt_of_le hi obufMax_le
  have ha : (0x02000000#32 + BitVec.ofNat 32 i).toNat = 2 * 0x1000000 + i := by
    rw [BitVec.toNat_add, BitVec.toNat_ofNat, BitVec.toNat_ofNat]
    omega
  obtain ⟨h2, hcell⟩ := regionOf_offsetOf ha hoff
  rw [read8_eq s (by omega), regionByte_obuf s h2, hcell, if_pos hi]
  rfl

/-- Settles O60: READOUT by `readCells_eq`, after the read of OBUF_LEN; below OBUF_LEN every cell is within the capacity. -/
theorem readsHaveNoSideEffect : Obligations.ReadsHaveNoSideEffect := by
  refine fun s => ⟨fun a => ⟨rfl, rfl⟩, fun hlen => ?_⟩
  have hlenRead : read32 s 0x00000010 = s.obufLen := rfl
  have hcells : ((List.range s.obufLen.toNat).map fun i => read8 s (0x02000000#32 + BitVec.ofNat 32 i)) =
      (List.range s.obufLen.toNat).map fun i => (obufByte s i).setWidth 32 :=
    List.map_congr_left fun i hi => read8_obuf s (lt_of_lt_of_le (List.mem_range.mp hi) hlen)
  rw [hostStep, hlenRead, readCells_eq]
  simp only [State.logRead, read8_host, hcells]
  rfl

end Sys2Proof.Machine

/-! ## The command word

R60 to R66, R78. A word without reserved bits is its opcode and its `sel` bit, and the row of the opcode in the map says
which command, if any, the `sel` bit selects; so encoder and decoder undo each other, and the legal words are those R65
describes. -/

namespace Sys2Proof

/-! ### The rows of the opcode map -/

/-- The command a row names for a value of `sel`: none if `sel` is set and R65 does not mark the row "sel" (R61). -/
def Row.command : Row → Bool → Option Instr
  | .plain i, false => some i
  | .plain _, true => none
  | .selectable mk, b => some (mk (selOfBit b))

/-- The rows that name a command for `sel = 1` are those of `selOpcodes`. -/
theorem opcodeMap_command_isSome :
    ∀ p ∈ opcodeMap, ∀ b, (p.2.command b).isSome = (!b || selOpcodes.contains p.1) := by decide

/-- A command has the opcode of its row and the `sel` bit that selects it. -/
theorem opcodeMap_command_fields :
    ∀ p ∈ opcodeMap, ∀ b, ∀ i ∈ p.2.command b, i.opcode = p.1 ∧ i.selBit = BitVec.ofBool b := by decide

theorem opcodeMap_fst : opcodeMap.map Prod.fst = opcodes := rfl

theorem mem_opcodeMap_of_lookup {op : Byte} {r : Row} (h : opcodeMap.lookup op = some r) : (op, r) ∈ opcodeMap := by
  obtain ⟨l₁, l₂, hmap, -⟩ := List.lookup_eq_some_iff.mp h
  rw [hmap]
  exact List.mem_append_right _ List.mem_cons_self

theorem opcodeMap_lookup_isSome (op : Byte) : (opcodeMap.lookup op).isSome = opcodes.contains op := by
  rw [Bool.eq_iff_iff, Option.isSome_iff_ne_none, ne_eq, List.lookup_eq_none_iff, ← opcodeMap_fst]
  simp

/-- Each command stands in the row of its opcode, under its `sel` bit. -/
theorem opcodeMap_lookup_opcode (i : Instr) :
    ∃ r, opcodeMap.lookup i.opcode = some r ∧ r.command (i.selBit == 1#1) = some i := by
  cases i with
  | piSerialize x | piSetOnlink x | piSetAuto x | piSetRouter x | piSetValidLt x | piSetPrefLt x | piSetPlen x
  | piSetPrefix x => cases x <;> exact ⟨_, rfl, rfl⟩
  | _ => exact ⟨_, rfl, rfl⟩

/-! ### Decoding -/

variable {w : Word}

theorem decode_rsv (h : Word.rsvZero w = false) : decode w = .error .reservedBits :=
  if_pos (beq_eq_false_iff_ne.mp h)

theorem decode_unlisted (h : Word.rsvZero w = true) (hop : opcodeMap.lookup (w.extractLsb' 0 8) = none) :
    decode w = .error .unknownOpcode := by
  rw [decode, if_neg (not_not.mpr (beq_iff_eq.mp h)), hop]

/-- A word without reserved bits, of a listed opcode, decodes to the command its row names for bit 8 (R61, R65). -/
theorem decode_listed (h : Word.rsvZero w = true) {r : Row} (hop : opcodeMap.lookup (w.extractLsb' 0 8) = some r) :
    decode w = (r.command (w.getLsbD 8)).elim (.error .selNotAllowed) .ok := by
  rw [decode, if_neg (not_not.mpr (beq_iff_eq.mp h)), hop]
  cases r with
  | plain i => cases w.getLsbD 8 <;> rfl
  | selectable mk => rfl

/-- A word fails with the first of the three checks that it does not pass, and decodes if it passes all (R66, R78). -/
theorem decode_cases (w : Word) :
    (Word.rsvZero w = false ∧ decode w = .error .reservedBits) ∨
    (Word.rsvZero w = true ∧ Word.opcodeListed w = false ∧ decode w = .error .unknownOpcode) ∨
    (Word.rsvZero w = true ∧ Word.opcodeListed w = true ∧ Word.selAllowed w = false ∧
      decode w = .error .selNotAllowed) ∨
    (Word.rsvZero w = true ∧ Word.opcodeListed w = true ∧ Word.selAllowed w = true ∧ ∃ i, decode w = .ok i) := by
  cases hrsv : Word.rsvZero w with
  | false => exact .inl ⟨rfl, decode_rsv hrsv⟩
  | true =>
    have hlisted : (opcodeMap.lookup (w.extractLsb' 0 8)).isSome = Word.opcodeListed w := opcodeMap_lookup_isSome _
    cases hop : opcodeMap.lookup (w.extractLsb' 0 8) with
    | none =>
      rw [hop] at hlisted
      exact .inr (.inl ⟨rfl, hlisted.symm, decode_unlisted hrsv hop⟩)
    | some r =>
      have hsel : (r.command (w.getLsbD 8)).isSome = Word.selAllowed w :=
        opcodeMap_command_isSome _ (mem_opcodeMap_of_lookup hop) _
      have hdec := decode_listed hrsv hop
      rw [hop] at hlisted
      cases hcmd : r.command (w.getLsbD 8) with
      | none =>
        rw [hcmd] at hsel hdec
        exact .inr (.inr (.inl ⟨rfl, hlisted.symm, hsel.symm, hdec⟩))
      | some i =>
        rw [hcmd] at hsel hdec
        exact .inr (.inr (.inr ⟨rfl, hlisted.symm, hsel.symm, i, hdec⟩))

theorem decodes_iff_legal : (∃ i, decode w = .ok i) ↔ Word.legal w = true := by
  rcases decode_cases w with h | h | h | ⟨hrsv, hop, hsel, i, hdec⟩ <;> simp [Word.legal, *]

/-- The row and the `sel` bit of a word that decodes. -/
theorem command_of_decode {i : Instr} (h : decode w = .ok i) :
    w.extractLsb' 9 23 = 0#23 ∧
      ∃ r, opcodeMap.lookup (w.extractLsb' 0 8) = some r ∧ r.command (w.getLsbD 8) = some i := by
  obtain ⟨hrsv, ⟨hop, hsel⟩ | ⟨mk, hop, rfl⟩⟩ := decode_ok h
  · exact ⟨hrsv, _, hop, by rw [hsel]; rfl⟩
  · exact ⟨hrsv, _, hop, rfl⟩

/-! ### Encoding and decoding -/

theorem extractLsb'_one (w : Word) (n : Nat) : w.extractLsb' n 1 = BitVec.ofBool (w.getLsbD n) := by
  apply BitVec.eq_of_getLsbD_eq
  intro i hi
  obtain rfl : i = 0 := by omega
  simp

/-- A word without reserved bits is its `sel` bit and its opcode (R60, R62). -/
theorem fields_of_rsv_zero (h : w.extractLsb' 9 23 = 0#23) :
    0#23 ++ (BitVec.ofBool (w.getLsbD 8) ++ w.extractLsb' 0 8) = w := by
  rw [← extractLsb'_one, ← h, ← word_fields]

theorem decode_encode (i : Instr) : decode (encode i) = .ok i := by
  obtain ⟨r, hop, hcmd⟩ := opcodeMap_lookup_opcode i
  rw [← encode_opcode] at hop
  rw [decode_listed (beq_iff_eq.mpr (encode_rsv i)) hop, encode_sel, hcmd]
  rfl

theorem encode_of_decode {i : Instr} (h : decode w = .ok i) : encode i = w := by
  obtain ⟨hrsv, r, hop, hcmd⟩ := command_of_decode h
  obtain ⟨hopcode, hsel⟩ := opcodeMap_command_fields _ (mem_opcodeMap_of_lookup hop) _ _ hcmd
  rw [encode, hopcode, hsel, fields_of_rsv_zero hrsv]

/-- Settles O7: the map lists each command under its own opcode and `sel` bit, and no command elsewhere. -/
theorem decodeEncodeAgree : Obligations.DecodeEncodeAgree :=
  ⟨decode_encode, fun _ _ => encode_of_decode⟩

/-- Settles O6: a legal word is its command's word; an illegal one fails the check named. -/
theorem sampleWordsDecode : Obligations.SampleWordsDecode :=
  ⟨decode_encode .ethParse, decode_encode .ipParse, decode_encode .ipCksum, decode_encode .ipSetTtl,
    decode_encode .piCreate, decode_encode (.piSetPlen .standalone), decode_encode (.piSetPlen .routerAdv),
    decode_encode .raSetRetrans, rfl, rfl, rfl, rfl⟩

/-! ### The legal words -/

/-- The words R65 describes: each opcode alone, and each opcode marked "sel" with bit 8 set. -/
def legalWords : List Word := opcodes.map (·.setWidth 32) ++ selOpcodes.map (·.setWidth 32 ||| 0x100#32)

theorem mem_legalWords : w ∈ legalWords ↔
    ∃ op ∈ opcodes, w = op.setWidth 32 ∨ (op ∈ selOpcodes ∧ w = op.setWidth 32 ||| 0x100#32) := by
  have hsub : selOpcodes ⊆ opcodes := by decide
  simp only [legalWords, List.mem_append, List.mem_map]
  constructor
  · rintro (⟨op, hop, rfl⟩ | ⟨op, hop, rfl⟩)
    · exact ⟨op, hop, .inl rfl⟩
    · exact ⟨op, hsub hop, .inr ⟨hop, rfl⟩⟩
  · rintro ⟨op, hop, rfl | ⟨hmark, rfl⟩⟩
    · exact .inl ⟨op, hop, rfl⟩
    · exact .inr ⟨op, hmark, rfl⟩

/-- The word of an opcode with `sel = 0` by its fields (R60). -/
theorem setWidth_eq_fields (op : Byte) : op.setWidth 32 = 0#23 ++ (BitVec.ofBool false ++ op) := by
  apply BitVec.eq_of_toNat_eq
  rw [BitVec.toNat_setWidth_of_le (by decide), BitVec.toNat_append, BitVec.toNat_append]
  simp

/-- The word of an opcode with `sel = 1` by its fields (R60). -/
theorem setWidth_or_sel_eq_fields (op : Byte) : op.setWidth 32 ||| 0x100#32 = 0#23 ++ (BitVec.ofBool true ++ op) := by
  have hbit : 0x100#32 = 0#23 ++ (BitVec.ofBool true ++ 0#8) := rfl
  rw [setWidth_eq_fields, hbit, BitVec.or_append, BitVec.or_append, BitVec.or_zero, BitVec.or_zero]
  rfl

theorem mem_legalWords_of_legal (h : Word.legal w = true) : w ∈ legalWords := by
  obtain ⟨⟨hrsv, hop⟩, hsel⟩ : (w.extractLsb' 9 23 = 0#23 ∧ w.extractLsb' 0 8 ∈ opcodes) ∧
      (w.getLsbD 8 = false ∨ w.extractLsb' 0 8 ∈ selOpcodes) := by
    simpa [Word.legal, Word.rsvZero, Word.opcodeListed, Word.selAllowed] using h
  have hw := fields_of_rsv_zero hrsv
  refine mem_legalWords.mpr ⟨_, hop, ?_⟩
  rw [setWidth_or_sel_eq_fields, setWidth_eq_fields]
  cases hbit : w.getLsbD 8 with
  | false => exact .inl (hbit ▸ hw.symm)
  | true => exact .inr ⟨hsel.resolve_left (by simp [hbit]), hbit ▸ hw.symm⟩

theorem legal_of_mem_legalWords (h : w ∈ legalWords) : Word.legal w = true := by
  have hplain : ∀ op ∈ opcodes, Word.legal (op.setWidth 32) = true := by decide
  have hmarked : ∀ op ∈ selOpcodes, Word.legal (op.setWidth 32 ||| 0x100#32) = true := by decide
  obtain ⟨op, hop, rfl | ⟨hsel, rfl⟩⟩ := mem_legalWords.mp h
  · exact hplain op hop
  · exact hmarked op hsel

/-- Settles O8: 32 opcodes alone and 8 with bit 8 set. -/
theorem fortyLegalWords : Obligations.FortyLegalWords :=
  ⟨legalWords, by decide, rfl, fun _ => decodes_iff_legal.trans ⟨mem_legalWords_of_legal, legal_of_mem_legalWords⟩,
    fun _ => mem_legalWords⟩

end Sys2Proof

namespace Sys2Proof.Machine

/-- An illegal word raises IllegalCommand (R66, R78). -/
theorem execute_illegal {w : Word} (h : Word.legal w = false) (s : State) :
    execute w s = raise .illegalCommand s := by
  unfold execute
  split
  next i hdec => exact absurd (h.symm.trans (decodes_iff_legal.mp ⟨i, hdec⟩)) Bool.false_ne_true
  next => rfl

/-- A 32-bit write to the address of CMD stores the word and executes it (R77). -/
theorem hostStep_cmd (w : Word) (s : State) : hostStep (.w32 0x00000004 w) s = execute w { s with cmd := w } :=
  write32_reg (r := .cmd) ⟨rfl, rfl⟩ w s

/-- Settles O9: which check a word fails by `decode_cases`, the effect of an illegal one by `execute_illegal`. -/
theorem illegalWordsRaiseIllegalCommand : Obligations.IllegalWordsRaiseIllegalCommand := by
  intro w
  refine ⟨?_, ?_, ?_, decodes_iff_legal, fun hillegal s => (hostStep_cmd w s).trans (execute_illegal hillegal _)⟩
  all_goals rcases decode_cases w with h | h | h | ⟨hrsv, hop, hsel, i, hdec⟩ <;> simp [*]

end Sys2Proof.Machine

/-! ## The operands of a command

R63, R64, R80. `State.withUnread` replaces the inputs that a command's form does not take; as with `State.withOthers`, that
changes neither the code the command raises nor what it commits, and it commutes with each write. -/

namespace Sys2Proof.Machine

/-- `s` with the inputs a command does not take (R64) taken from `o`. -/
def State.withUnread (i : Instr) (s o : State) : State :=
  { s with
    operand := if readsOperand i then s.operand else o.operand
    ibuf := if readsInput i then s.ibuf else o.ibuf
    ibufLen := if readsInput i then s.ibufLen else o.ibufLen }

variable (s o : State)

theorem State.setStatus_withUnread (i : Instr) (c : Status) :
    (s.withUnread i o).setStatus c = (s.setStatus c).withUnread i o := rfl

theorem State.emit_withUnread (i : Instr) (b : Bytes) : (s.withUnread i o).emit b = (s.emit b).withUnread i o := rfl

/-- The checks of a command read no input that it does not take. -/
theorem raised_withUnread (i : Instr) : raised (s.withUnread i o) i = raised s i := by
  cases i <;> rfl

/-- What a command commits comes from no input that it does not take. -/
theorem effect_withUnread (i : Instr) : effect (s.withUnread i o) i = (effect s i).withUnread i o := by
  cases i with
  | ethSerialize | ipSerialize | raSerialize => exact s.emit_withUnread o _ _
  | piSerialize x => cases x <;> exact s.emit_withUnread o _ _
  | piSetOnlink x | piSetAuto x | piSetRouter x | piSetValidLt x | piSetPrefLt x | piSetPlen x | piSetPrefix x =>
    cases x <;> rfl
  | _ => rfl

theorem exec_withUnread {s t : State} {i : Instr} (h : exec i s = .next t) :
    exec i (s.withUnread i o) = .next (t.withUnread i o) := by
  obtain ⟨c, hraise, rfl⟩ | ⟨hpass, rfl⟩ := exec_next h
  · rw [← State.setStatus_withUnread]
    exact exec_of_failure ((raised_withUnread s o i).trans hraise)
  · rw [← State.setStatus_withUnread, ← effect_withUnread]
    exact exec_of_success ((raised_withUnread s o i).trans hpass)

/-! ### STATUS -/

theorem raised_setStatus (i : Instr) (c : Status) : raised (s.setStatus c) i = raised s i := by
  cases i <;> rfl

theorem effect_setStatus (i : Instr) (c : Status) : effect (s.setStatus c) i = (effect s i).setStatus c := by
  cases i with
  | ethSerialize | ipSerialize | raSerialize => exact emit_with_status s _ c
  | piSerialize x => cases x <;> exact emit_with_status s _ c
  | piSetOnlink x | piSetAuto x | piSetRouter x | piSetValidLt x | piSetPrefLt x | piSetPlen x | piSetPrefix x =>
    cases x <;> rfl
  | _ => rfl

/-- A command writes STATUS and does not read it (R80). -/
theorem exec_setStatus (i : Instr) (c : Status) : exec i (s.setStatus c) = exec i s := by
  rw [exec_eq, exec_eq, raised_setStatus, effect_setStatus]
  cases raised s i <;> rfl

/-- Settles O15: OPERAND and the input by `exec_withUnread`, STATUS by `exec_setStatus`. -/
theorem commandsIgnoreWhatTheyDoNotTake : Obligations.CommandsIgnoreWhatTheyDoNotTake := by
  intro i s t h
  obtain ⟨hoperand, hibuf, hlen, -⟩ := commandsKeepTheirInputs i s t h
  refine ⟨fun hop v => ?_, fun hin m l => ?_, fun c => (exec_setStatus s i c).trans h⟩
  · have hexec := exec_withUnread { s with operand := v } h
    simpa [State.withUnread, hop, hibuf, hlen] using hexec
  · have hexec := exec_withUnread { s with ibuf := m, ibufLen := l } h
    simpa [State.withUnread, hin, hoperand] using hexec

/-! ### The input -/

/-- Settles O23: byte `i` of the input is what a read of IBUF cell `i` shows. -/
theorem inputIsIbufPrefix : Obligations.InputIsIbufPrefix := by
  refine fun s => ⟨input_length s, fun i hi => ?_⟩
  have hbyte : (input s)[i]? = some ((Memory.read s.ibuf i).getD (Config.freeByte s.draw .ibuf i)) := by
    rw [← input_length] at hi
    rw [List.getElem?_eq_getElem hi, input_getElem, ibufByte]
  exact ⟨fun b hwritten => by rw [hbyte, hwritten]; rfl, fun hunwritten => by rw [hbyte, hunwritten]; rfl⟩

end Sys2Proof.Machine

/-! ## The host's branch

R69. The label is found at its first declaration (log entry 8). -/

namespace Sys2Proof.Machine

theorem labelLine_first {sc : Script} {name k : Nat} (hk : sc[k]? = some (HostAction.label name))
    (hfirst : ∀ j : Nat, j < k → sc[j]? ≠ some (HostAction.label name)) : labelLine sc name = some k := by
  obtain ⟨hlen, hline⟩ := List.getElem?_eq_some_iff.mp hk
  refine List.findIdx?_eq_some_iff_getElem.mpr ⟨hlen, beq_iff_eq.mpr hline, fun j hj hlabel => hfirst j hj ?_⟩
  rw [List.getElem?_eq_getElem (hj.trans hlen), beq_iff_eq.mp hlabel]

theorem labelLine_undeclared {sc : Script} {name : Nat} (h : ∀ k : Nat, sc[k]? ≠ some (HostAction.label name)) :
    labelLine sc name = none := by
  refine List.findIdx?_eq_none_iff.mpr fun a ha => ?_
  obtain ⟨k, hk⟩ := List.mem_iff_getElem?.mp ha
  exact beq_eq_false_iff_ne.mpr fun hlabel => h k (hlabel ▸ hk)

/-- STATUS is the code: the read is recorded and the host stays on its line. -/
theorem branchOnStatus_eq {s : State} {c : Word} (name : Nat) (h : s.status.code.setWidth 32 = c) :
    branchOnStatus c name s = .next (s.logRead (s.status.code.setWidth 32)) := if_pos h

/-- STATUS is another code: the read is recorded and the host goes to the label, where the script declares it. -/
theorem branchOnStatus_ne {s : State} {c : Word} (name : Nat) (h : s.status.code.setWidth 32 ≠ c) :
    branchOnStatus c name s = (labelLine s.host.script name).elim (.fault (.unknownLabel name))
      fun line => .next ((s.logRead (s.status.code.setWidth 32)).goTo line) := by
  refine (if_neg h).trans ?_
  cases labelLine s.host.script name <;> rfl

/-- Settles O5: an equal code by `branchOnStatus_eq`, another by `branchOnStatus_ne` and `labelLine`. -/
theorem branchOnStatusFollowsScript : Obligations.BranchOnStatusFollowsScript := by
  rintro s _ c name hline rfl
  have hstep : step s = branchOnStatus c name s.advance := step_action hline
  refine ⟨fun heq => hstep.trans (branchOnStatus_eq (s := s.advance) name heq), fun hne => ?_⟩
  rw [hstep, branchOnStatus_ne (s := s.advance) name hne]
  refine ⟨fun k hk hfirst => ?_, fun hnone => ?_⟩
  · have hfound : labelLine s.advance.host.script name = some k := labelLine_first hk hfirst
    rw [hfound]
    rfl
  · have hmissing : labelLine s.advance.host.script name = none := labelLine_undeclared hnone
    rw [hmissing]
    rfl

end Sys2Proof.Machine

/-! ## The command cycle

R77 to R84. The checks of every command are read off `raised`: the valid-bit check stands before the rest, and behind it the
width or the address check of the operand's form. -/

namespace Sys2Proof.Machine

/-! ### A CMD write -/

theorem execute_decoded {w : Word} {i : Instr} (h : decode w = .ok i) (s : State) : execute w s = exec i s := by
  rw [execute, h]

theorem execute_undecoded {w : Word} {e : Illegal} (h : decode w = .error e) (s : State) :
    execute w s = raise .illegalCommand s := by
  rw [execute, h]

/-- Settles O3: the line's step is the CMD write of `hostStep_cmd`, at the state in which line and draw have moved on. -/
theorem stepRunsDecodedCommand : Obligations.StepRunsDecodedCommand := by
  rintro s _ w hline rfl
  have hstep : step s = execute w { s.advance with cmd := w } := (step_action hline).trans (hostStep_cmd w _)
  exact ⟨fun i hdec => hstep.trans (execute_decoded hdec _), fun e hdec => hstep.trans (execute_undecoded hdec _)⟩

/-! ### Completion -/

variable (s : State)

theorem exec_completes (i : Instr) : ∃ t, exec i s = .next t := by
  cases h : raised s i with
  | some c => exact ⟨_, exec_of_failure h⟩
  | none => exact ⟨_, exec_of_success h⟩

theorem execute_completes (w : Word) : ∃ t, execute w s = .next t := by
  cases h : decode w with
  | ok i => exact execute_decoded h s ▸ exec_completes s i
  | error e => exact ⟨_, execute_undecoded h s⟩

theorem writeReg_completes (r : Reg) (v : Word) : ∃ t, writeReg r v s = .next t := by
  unfold writeReg
  split
  · exact execute_completes _ v
  all_goals exact ⟨_, rfl⟩

theorem write32_completes (a v : Word) : ∃ t, write32 a v s = .next t := by
  unfold write32
  split <;> split
  · exact writeReg_completes s _ v
  all_goals exact ⟨_, rfl⟩

theorem write8_completes (a v : Word) : ∃ t, write8 a v s = .next t := by
  unfold write8
  split <;> split
  · exact writeReg_completes s _ _
  all_goals exact ⟨_, rfl⟩

/-- Settles O10: a command raises or commits; of the host's actions only a write can run one, and only a branch can fault. -/
theorem everyCommandCompletes : Obligations.EveryCommandCompletes := by
  refine ⟨fun i s => exec_completes s i, fun act s hbranch => ?_⟩
  cases act with
  | w32 a v => exact write32_completes s a v
  | w8 a v => exact write8_completes s a v
  | bneStatus c n => exact absurd rfl (hbranch c n)
  | r32 | r8 | readout | label | reset => exact ⟨_, rfl⟩

/-- Settles O11: a command that raises writes STATUS alone, and one that commits ends with OK. -/
theorem failedCommandChangesOnlyStatus : Obligations.FailedCommandChangesOnlyStatus := by
  intro i s t h hfailed
  obtain ⟨c, -, rfl⟩ | ⟨-, rfl⟩ := exec_next h
  · rfl
  · exact absurd rfl hfailed

/-! ### The checks -/

variable {s} {i : Instr} {n : Nat}

theorem checkWidth_gt (h : n < s.operand.toNat) : checkWidth n s = some .valueTooLarge :=
  if_neg (Nat.not_le.mpr h)

theorem checkAddress_ne (h : s.ibufLen.toNat ≠ n) (rest : Option Status) :
    checkAddress n s rest = some .addressFamilyMismatch := if_neg h

theorem checkAddress_eq (h : s.ibufLen.toNat = n) (rest : Option Status) : checkAddress n s rest = rest := if_pos h

/-- A command with a valid bit checks it before everything else (R82). -/
theorem raised_instanceBit {v : Bool} (h : instanceBit s i = some v) : ∃ rest, raised s i = checkValid v rest := by
  cases i <;> cases h <;> exact ⟨_, rfl⟩

/-- A command without a valid bit has no check that raises NotConstructed (R82). -/
theorem raised_ne_notConstructed (h : instanceBit s i = none) : raised s i ≠ some .notConstructed := by
  cases i with
  | ipNew => nofun
  | ethParse | ipCksum =>
    simp only [raised]
    split_ifs <;> decide
  | ipParse =>
    simp only [raised, ipParseError]
    split_ifs <;> decide
  | piCreate | raCreate =>
    simp only [raised, checkAddress, checkWidth]
    split_ifs <;> decide
  | _ => cases h

/-- Behind the valid bit, a numeric operand has the width check alone (R83). -/
theorem raised_numericLimit {v : Bool} (hn : numericLimit i = some n) (hv : instanceBit s i = some v) :
    raised s i = checkValid v (checkWidth n s) := by
  cases i <;> cases hn <;> cases hv <;> rfl

/-- Behind the valid bit, if the command has one, an address operand has the address check first (R84). -/
theorem raised_addressLength (hn : addressLength i = some n) :
    ∃ rest, raised s i = checkValid ((instanceBit s i).getD true) (checkAddress n s rest) := by
  cases i <;> cases hn <;> exact ⟨_, rfl⟩

/-- Settles O20: the valid bit is the first check of the commands that have one, and no other check has its code. -/
theorem instanceCheckComesFirst : Obligations.InstanceCheckComesFirst := by
  refine fun i s => ⟨fun hclear => ?_, fun hnone t ht => ?_⟩
  · obtain ⟨rest, hraised⟩ := raised_instanceBit hclear
    exact exec_of_failure hraised
  · obtain ⟨c, hraised, rfl⟩ | ⟨-, rfl⟩ := exec_next ht
    · rintro rfl
      exact raised_ne_notConstructed hnone hraised
    · nofun

/-- Settles O21: the checks before the width check pass, the valid bit or PI_CREATE's address check. -/
theorem widthCheckRaises : Obligations.WidthCheckRaises := by
  rintro i s n hlimit habove (hvalid | ⟨rfl, hlen⟩)
  · exact exec_of_failure ((raised_numericLimit hlimit hvalid).trans (checkWidth_gt habove))
  · cases hlimit
    exact exec_of_failure ((checkAddress_eq hlen _).trans (checkWidth_gt habove))

/-- Settles O22: a valid bit that is not 0 passes, and the address check is next. -/
theorem addressCheckRaises : Obligations.AddressCheckRaises := by
  intro i s n haddress hlen hclear
  obtain ⟨rest, hraised⟩ := raised_addressLength (s := s) haddress
  have hvalid : (instanceBit s i).getD true = true := by
    rcases hbit : instanceBit s i with _ | _ | _
    · rfl
    · exact absurd hbit hclear
    · rfl
  rw [hvalid] at hraised
  exact exec_of_failure (hraised.trans (checkAddress_ne hlen rest))

end Sys2Proof.Machine

/-! ## The Ethernet unit

R86 to R88. What ETH_PARSE loads is said field by field as a part of the input; put side by side again, the parts are the
input, which is the round trip of ETH_SERIALIZE. -/

namespace Sys2Proof.Machine

/-! ### EtherTypes -/

/-- Settles O26: the seven named values are distinct and have distinct classes, none of them 0. -/
theorem classifyEtherTypes : Obligations.ClassifyEtherTypes := by
  intro t
  by_cases hnamed : t ∈ [0x0800, 0x0806, 0x8035, 0x809B, 0x80F3, 0x86DD, 0x8819]
  all_goals simp only [List.mem_cons, List.not_mem_nil, or_false, not_or] at hnamed
  · rcases hnamed with rfl | rfl | rfl | rfl | rfl | rfl | rfl <;> decide
  · have hother : classify t = 0 := by simp only [classify, hnamed, if_false]
    simp only [hother, hnamed, ne_eq]
    decide

/-! ### The parts of a frame -/

variable {b : Bytes}

/-- A field of `n` bytes taken from index `i` on holds the bytes that stand there. -/
theorem fixedBytes_slice {i n : Nat} (h : i + n ≤ b.length) :
    (fixedBytes n (slice b i (i + n))).toList = (b.drop i).take n := by
  rw [fixedBytes_toList (by rw [slice_length h, Nat.add_sub_cancel_left]), slice, Nat.add_sub_cancel_left]

/-- The half word at index `i` of a byte sequence is its two bytes from there on (R11). -/
theorem bytes16_be16At {i : Nat} (h : i + 2 ≤ b.length) : bytes16 (be16At b i) = (b.drop i).take 2 := by
  rw [be16At, bytes16_be16, byteAt_eq_getElem, byteAt_eq_getElem, List.drop_eq_getElem_cons, List.drop_eq_getElem_cons]
  · rfl
  all_goals omega

/-- The `n` bytes from index `i` on, and after them the rest. -/
theorem take_append_drop_add (b : Bytes) (i n : Nat) : (b.drop i).take n ++ b.drop (i + n) = b.drop i := by
  rw [← List.drop_drop, List.take_append_drop]

theorem ethOfBytes_dst (h : 14 ≤ b.length) : (ethOfBytes b).dst.toList = b.take 6 :=
  fixedBytes_slice (i := 0) (by omega)

theorem ethOfBytes_src (h : 14 ≤ b.length) : (ethOfBytes b).src.toList = (b.drop 6).take 6 :=
  fixedBytes_slice (by omega)

theorem bytes16_ethOfBytes_type (h : 14 ≤ b.length) : bytes16 (ethOfBytes b).type = (b.drop 12).take 2 :=
  bytes16_be16At h

theorem ethOfBytes_pay (b : Bytes) : (ethOfBytes b).pay = b.drop 14 :=
  List.take_of_length_le (List.length_drop ..).le

/-- A frame parsed and written again is the frame (R87, R88). -/
theorem ethBytes_ethOfBytes (h : 14 ≤ b.length) : ethBytes (ethOfBytes b) = b := by
  rw [ethBytes, ethOfBytes_dst h, ethOfBytes_src h, bytes16_ethOfBytes_type h, ethOfBytes_pay, List.append_assoc,
    List.append_assoc, take_append_drop_add b 12 2, take_append_drop_add b 6 6, List.take_append_drop]

/-! ### The commands -/

variable {s : State}

theorem exec_ethParse (h : 14 ≤ s.ibufLen.toNat) :
    exec .ethParse s = .next { s with eth := ethOfBytes (input s), ethV := true, status := .ok } :=
  exec_of_success (if_neg (Nat.not_lt.mpr h))

theorem exec_ethSerialize (h : s.ethV = true) :
    exec .ethSerialize s = .next ((s.emit (ethBytes s.eth)).setStatus .ok) :=
  exec_of_success (if_pos h)

/-- Settles O27: the input is as long as IBUF_LEN says, so a frame that is not short has all its parts. -/
theorem ethParseLoadsFrame : Obligations.EthParseLoadsFrame := by
  refine ⟨decode_encode .ethParse, fun s => ⟨fun hlen => ?_, fun hshort => exec_of_failure (if_pos hshort)⟩⟩
  have hinput : 14 ≤ (input s).length := input_length s ▸ hlen
  exact ⟨_, exec_ethParse hlen, ethOfBytes_dst hinput, ethOfBytes_src hinput, rfl, ethOfBytes_pay _⟩

/-- Settles O28: past the valid-bit check the command writes the frame as output. -/
theorem ethSerializeWritesFrame : Obligations.EthSerializeWritesFrame := by
  refine ⟨decode_encode .ethSerialize, fun s => ⟨fun hvalid => ?_, fun hclear => ?_⟩⟩
  · exact ⟨_, exec_ethSerialize hvalid, emitted_emit s (ethBytes s.eth)⟩
  · exact (instanceCheckComesFirst .ethSerialize s).1 (congrArg some hclear)

/-- Settles O29: ETH_PARSE leaves the set valid, and its bytes are the input. -/
theorem ethParseThenSerializeReproducesFrame : Obligations.EthParseThenSerializeReproducesFrame := by
  intro s hlen
  have hframe : ethBytes (ethOfBytes (input s)) = input s := ethBytes_ethOfBytes (input_length s ▸ hlen)
  refine ⟨_, _, exec_ethParse hlen, exec_ethSerialize rfl, ?_⟩
  rw [hframe]
  exact emitted_emit _ _

end Sys2Proof.Machine

/-! ## The IPv4 unit

R89 to R102. The header image is read field by field behind any further bytes, which gives its layout (R92) and IP_PARSE
of IP_SERIALIZE's output (R94 (a)); a parsed packet's header image is the input's first bytes, which gives R94 (b). Both
round trips need that CK reads every word but its own (R104). -/

namespace Sys2Proof.Machine

/-! ### Setters -/

section

variable {i : Instr} {w : Word} {n : Nat} {valid : State → Bool}

/-- A command behind a valid bit and the width check alone is a numeric setter of what it commits (R82, R83). -/
theorem numericSetter_of_effect {f : State → State} (hw : decode w = .ok i) (hlimit : numericLimit i = some n)
    (hvalid : ∀ s, instanceBit s i = some (valid s))
    (heffect : ∀ s, (effect s i).setStatus .ok = { f s with status := .ok }) : NumericSetter w i valid n f := by
  refine ⟨hw, fun s => ⟨fun hv hle => ?_, fun hv hgt => ?_, fun hclear => ?_⟩⟩
  · have hpass : raised s i = none := by
      rw [raised_numericLimit hlimit (hvalid s), hv]
      exact if_pos hle
    rw [exec_of_success hpass, heffect]
  · exact widthCheckRaises i s n hlimit hgt (.inl (by rw [hvalid, hv]))
  · exact (instanceCheckComesFirst i s).1 (by rw [hvalid, hclear])

/-- A command behind a valid bit and the address check alone is a setter of what it commits (R82, R84). -/
theorem addressSetter_of_effect {f : Vector Byte n → State → State} (hw : decode w = .ok i)
    (hraised : ∀ s, raised s i = checkValid (valid s) (checkAddress n s none))
    (heffect : ∀ s, (effect s i).setStatus .ok = { f (fixedBytes n (input s)) s with status := .ok }) :
    AddressSetter n w i valid f := by
  refine ⟨hw, fun s => ⟨fun a hv ha => ?_, fun hv hne => ?_, fun hclear => ?_⟩⟩
  · have hlen : s.ibufLen.toNat = n := by rw [← input_length, ha, Vector.length_toList]
    have hpass : raised s i = none := by
      rw [hraised, hv]
      exact checkAddress_eq hlen none
    rw [exec_of_success hpass, heffect, ha, fixedBytes_self]
  · refine exec_of_failure ?_
    rw [hraised, hv]
    exact checkAddress_ne hne none
  · refine exec_of_failure ?_
    rw [hraised, hclear]
    rfl

end

/-- Settles O30: the command makes no check, and the reset values of the set are the all-zero packet. -/
theorem ipNewMakesFreshPacket : Obligations.IpNewMakesFreshPacket :=
  ⟨decode_encode .ipNew, fun _ => exec_of_success rfl⟩

/-- Settles O34: each command is a numeric setter of its own field. -/
theorem ipNumericSetters : Obligations.IpNumericSetters :=
  ⟨numericSetter_of_effect (decode_encode .ipSetTos) rfl (fun _ => rfl) fun _ => rfl,
    numericSetter_of_effect (decode_encode .ipSetId) rfl (fun _ => rfl) fun _ => rfl,
    numericSetter_of_effect (decode_encode .ipSetTtl) rfl (fun _ => rfl) fun _ => rfl,
    numericSetter_of_effect (decode_encode .ipSetProto) rfl (fun _ => rfl) fun _ => rfl⟩

/-- Settles O35: each command is an address setter of its own field. -/
theorem ipAddressSetters : Obligations.IpAddressSetters :=
  ⟨addressSetter_of_effect (decode_encode .ipSetSrc) (fun _ => rfl) fun _ => rfl,
    addressSetter_of_effect (decode_encode .ipSetDst) (fun _ => rfl) fun _ => rfl⟩

/-- Behind the valid bit, IP_SET_OPTIONS checks the new length (R101). -/
theorem raised_ipSetOptions {s : State} (hv : s.ipV = true) :
    raised s .ipSetOptions =
      if s.ibufLen.toNat % 4 ≠ 0 ∨ 40 < s.ibufLen.toNat then some .invalidOptionsLength else none := by
  rw [raised, hv]
  rfl

/-- Settles O36: the two clauses of IP_SET_OPTIONS are the two sides of its length check; IP_SET_PAYLOAD has none. -/
theorem ipByteSequenceSetters : Obligations.IpByteSequenceSetters := by
  refine ⟨⟨decode_encode .ipSetOptions, fun s => ⟨fun hv hmod hle => ?_, fun hv hbad => ?_, fun hclear => ?_⟩⟩,
    decode_encode .ipSetPayload, fun s => ⟨fun hv => ?_, fun hclear => ?_⟩⟩
  · exact exec_of_success ((raised_ipSetOptions hv).trans (if_neg (by omega)))
  · exact exec_of_failure ((raised_ipSetOptions hv).trans (if_pos hbad))
  · exact (instanceCheckComesFirst .ipSetOptions s).1 (congrArg some hclear)
  · exact exec_of_success (if_pos hv)
  · exact (instanceCheckComesFirst .ipSetPayload s).1 (congrArg some hclear)

/-! ### The checks of IP_PARSE -/

section

variable {b : Bytes} {len : Nat}

theorem ipParseError_version (h20 : 20 ≤ len) (hver : versionOf b ≠ 4) :
    ipParseError b len = some .unsupportedVersion := by
  simp [ipParseError, Nat.not_lt.mpr h20, hver]

theorem ipParseError_headerLength (h20 : 20 ≤ len) (hver : versionOf b = 4) (hihl : ihlOf b < 5) :
    ipParseError b len = some .invalidHeaderLength := by
  simp [ipParseError, Nat.not_lt.mpr h20, hver, hihl]

/-- The checks that remain once the version and the header length have passed (R90). -/
theorem ipParseError_header (h20 : 20 ≤ len) (hver : versionOf b = 4) (hihl : 5 ≤ ihlOf b) :
    ipParseError b len =
      if totalLenOf b < ihlOf b * 4 ∨ len < totalLenOf b then some .invalidTotalLength
      else if ck b (2 * ihlOf b) ≠ be16At b 10 then some .checksumMismatch
      else none := by
  simp [ipParseError, Nat.not_lt.mpr h20, hver, Nat.not_lt.mpr hihl]

theorem ipParseError_lengths (h20 : 20 ≤ len) (hver : versionOf b = 4) (hihl : 5 ≤ ihlOf b)
    (hhl : ihlOf b * 4 ≤ totalLenOf b) (htl : totalLenOf b ≤ len) :
    ipParseError b len = if ck b (2 * ihlOf b) ≠ be16At b 10 then some .checksumMismatch else none :=
  (ipParseError_header h20 hver hihl).trans (if_neg (by omega))

/-- IP_PARSE accepts just the packets that pass its five checks (R90, R91). -/
theorem ipParseError_eq_none : ipParseError b len = none ↔
    20 ≤ len ∧ versionOf b = 4 ∧ 5 ≤ ihlOf b ∧ ihlOf b * 4 ≤ totalLenOf b ∧ totalLenOf b ≤ len ∧
      ck b (2 * ihlOf b) = be16At b 10 := by
  constructor
  · intro h
    unfold ipParseError at h
    split_ifs at h with h20 hver hihl hlen hck
    exact ⟨by omega, not_not.mp hver, by omega, by omega, by omega, not_not.mp hck⟩
  · rintro ⟨h20, hver, hihl, hhl, htl, hck⟩
    exact (ipParseError_lengths h20 hver hihl hhl htl).trans (if_neg (not_not.mpr hck))

end

theorem exec_ipParse {s : State} (h : ipParseError (input s) s.ibufLen.toNat = none) :
    exec .ipParse s = .next { s with ip := ipOfBytes (input s), ipV := true, status := .ok } :=
  exec_of_success h

/-- IP.FRAG by its two parts, the high one shifted into its place (R73). -/
theorem append_eq_shiftLeft_or (hi : BitVec 5) (lo : Byte) :
    hi ++ lo = hi.setWidth 13 <<< 8 ||| lo.setWidth 13 :=
  (BitVec.setWidth_eq _).symm.trans BitVec.setWidth_append_eq_shiftLeft_setWidth_or

/-- Settles O31: each clause is a case of the cascade of checks; the fields are parts of the input. -/
theorem ipParseChecksAndLoads : Obligations.IpParseChecksAndLoads := by
  refine ⟨decode_encode .ipParse, ?_⟩
  rintro s _ _ _ _ rfl rfl rfl rfl
  refine ⟨fun hshort => exec_of_failure (if_pos hshort),
    fun h20 hver => exec_of_failure (ipParseError_version h20 hver),
    fun h20 hver hihl => exec_of_failure (ipParseError_headerLength h20 hver hihl),
    fun h20 hver hihl hlen => exec_of_failure ((ipParseError_header h20 hver hihl).trans (if_pos hlen)),
    fun h20 hver hihl hhl htl hck =>
      exec_of_failure ((ipParseError_lengths h20 hver hihl hhl htl).trans (if_pos hck)),
    fun h20 hver hihl hhl htl hck => ?_⟩
  have hlen : 20 ≤ (input s).length := input_length s ▸ h20
  exact ⟨_, exec_ipParse (ipParseError_eq_none.mpr ⟨h20, hver, hihl, hhl, htl, hck⟩), rfl, rfl, rfl,
    append_eq_shiftLeft_or _ _, rfl, rfl, fixedBytes_slice (by omega), fixedBytes_slice (by omega), rfl, rfl⟩

/-! ### The header image

Each field as its reader sees it in the image of a packet `p`, whatever bytes `r` follow (R92). -/

section

variable (p : IpSet) (c : Half) (r : Bytes)

/-- The first byte of a header of `n` words: version 4 in the high nibble, `n` in the low one (R73). -/
theorem headerByte_nibbles : ∀ n : Fin 16, ((0x40 ||| BitVec.ofNat 8 n.val).extractLsb' 4 4).toNat = 4 ∧
    ((0x40 ||| BitVec.ofNat 8 n.val).extractLsb' 0 4).toNat = n.val := by
  decide

/-- Options that meet R29 make a header of at most 15 words, which its nibble holds. -/
theorem ihl_lt {p : IpSet} (h : p.opt.length ≤ 40) : p.ihl < 16 := by
  rw [IpSet.ihl]
  omega

theorem versionOf_ipImage (h : p.opt.length ≤ 40) : versionOf (ipImage p c ++ r) = 4 :=
  (headerByte_nibbles ⟨p.ihl, ihl_lt h⟩).1

theorem ihlOf_ipImage (h : p.opt.length ≤ 40) : ihlOf (ipImage p c ++ r) = p.ihl :=
  (headerByte_nibbles ⟨p.ihl, ihl_lt h⟩).2

theorem be16At_ipImage_totalLen : be16At (ipImage p c ++ r) 2 = BitVec.ofNat 16 p.totalLen := be16_bytes16 _

theorem totalLenOf_ipImage (h : p.totalLen ≤ 0xFFFF) : totalLenOf (ipImage p c ++ r) = p.totalLen := by
  rw [totalLenOf, be16At_ipImage_totalLen, BitVec.toNat_ofNat, Nat.mod_eq_of_lt (by omega)]

theorem be16At_ipImage_id : be16At (ipImage p c ++ r) 4 = p.id := be16_bytes16 _

theorem flags_ipImage : (byteAt (ipImage p c ++ r) 6).extractLsb' 5 3 = p.flags := BitVec.extractLsb'_append_eq_left

theorem fragHigh_ipImage : (byteAt (ipImage p c ++ r) 6).extractLsb' 0 5 = p.frag.extractLsb' 8 5 :=
  BitVec.extractLsb'_append_eq_right

theorem frag_ipImage : (byteAt (ipImage p c ++ r) 6).extractLsb' 0 5 ++ byteAt (ipImage p c ++ r) 7 = p.frag := by
  rw [fragHigh_ipImage]
  exact (BitVec.extractLsb'_append_extractLsb'_eq_extractLsb' rfl).trans BitVec.extractLsb'_eq_self

theorem be16At_ipImage_cksum : be16At (ipImage p c ++ r) 10 = c := be16_bytes16 _

theorem drop12_ipImage : (ipImage p c ++ r).drop 12 = p.src.toList ++ (p.dst.toList ++ (p.opt ++ r)) := by
  simp [ipImage_eq]

theorem drop16_ipImage : (ipImage p c ++ r).drop 16 = p.dst.toList ++ (p.opt ++ r) := by
  rw [← List.drop_drop (i := 4) (j := 12), drop12_ipImage, List.drop_left' (by simp)]

theorem drop20_ipImage : (ipImage p c ++ r).drop 20 = p.opt ++ r := by
  rw [← List.drop_drop (i := 4) (j := 16), drop16_ipImage, List.drop_left' (by simp)]

theorem src_ipImage : ((ipImage p c ++ r).drop 12).take 4 = p.src.toList := by
  rw [drop12_ipImage, List.take_left' (by simp)]

theorem dst_ipImage : ((ipImage p c ++ r).drop 16).take 4 = p.dst.toList := by
  rw [drop16_ipImage, List.take_left' (by simp)]

end

/-- Whole words of options make the header `IHL * 4` bytes long (R29, R30). -/
theorem ihl_mul_four {p : IpSet} (h : p.opt.length % 4 = 0) : p.ihl * 4 = 20 + p.opt.length := by
  rw [IpSet.ihl]
  omega

/-- Settles O32: the image with nothing behind it. -/
theorem ipImageLayout : Obligations.IpImageLayout := by
  intro p c hmod hle
  have hlen : (ipImage p c).length = p.ihl * 4 := by rw [ipImage_length, ihl_mul_four hmod]
  rw [← List.append_nil (ipImage p c)] at hlen ⊢
  refine ⟨hlen, versionOf_ipImage p c [] hle, ihlOf_ipImage p c [] hle, rfl, be16At_ipImage_totalLen p c [],
    be16At_ipImage_id p c [], flags_ipImage p c [], fragHigh_ipImage p c [], rfl, rfl, rfl,
    be16At_ipImage_cksum p c [], src_ipImage p c [], dst_ipImage p c [], ?_⟩
  rw [drop20_ipImage, List.append_nil]

/-! ### The header checksum -/

/-- The sum reads no word but those before the `n`th, and not word 5 (R104). -/
theorem ckSum_congr {h h' : Bytes} {n : Nat} (heq : ∀ k, k < n → k ≠ 5 → headerWord h k = headerWord h' k) :
    ckSum h n = ckSum h' n := by
  induction n with
  | zero => rfl
  | succ n ih =>
    have hsum := ih fun k hk => heq k (by omega)
    rw [ckSum_succ, ckSum_succ, hsum]
    by_cases h5 : n = 5
    · rw [if_pos h5, if_pos h5]
    · rw [if_neg h5, if_neg h5, heq n (by omega) h5]

theorem ck_congr {h h' : Bytes} {n : Nat} (heq : ∀ k, k < n → k ≠ 5 → headerWord h k = headerWord h' k) :
    ck h n = ck h' n := by
  rw [ck, ck, ckSum_congr heq]

/-- The checksum value stands at bytes 10 and 11 of the image, and nowhere else (R92). -/
theorem byteAt_ipImage_of_ne (p : IpSet) (c d : Half) {i : Nat} (h10 : i ≠ 10) (h11 : i ≠ 11) :
    byteAt (ipImage p c) i = byteAt (ipImage p d) i := by
  have hset : ipImage p c = ((ipImage p d).set 10 (c.extractLsb' 8 8)).set 11 (c.extractLsb' 0 8) := rfl
  rw [hset, byteAt, byteAt, List.getD_eq_getElem?_getD, List.getD_eq_getElem?_getD,
    List.getElem?_set_ne h11.symm, List.getElem?_set_ne h10.symm]

theorem headerWord_ipImage_of_ne (p : IpSet) (c d : Half) {k : Nat} (h5 : k ≠ 5) :
    headerWord (ipImage p c) k = headerWord (ipImage p d) k := by
  rw [headerWord, headerWord, byteAt_ipImage_of_ne p c d (by omega) (by omega),
    byteAt_ipImage_of_ne p c d (by omega) (by omega)]

/-- A word within a header is the same with further bytes behind the header. -/
theorem headerWord_append {h : Bytes} {k : Nat} (hk : 2 * k + 1 < h.length) (r : Bytes) :
    headerWord (h ++ r) k = headerWord h k := by
  rw [headerWord, headerWord, byteAt, byteAt, byteAt, byteAt, List.getD_append _ _ _ _ (by omega),
    List.getD_append _ _ _ _ hk]

/-- The header checksum depends neither on the checksum field nor on what follows the header (R104, R110). -/
theorem ck_ipImage {p : IpSet} (hmod : p.opt.length % 4 = 0) (c : Half) (r : Bytes) :
    ck (ipImage p c ++ r) (2 * p.ihl) = ipChecksum p := by
  have hihl := ihl_mul_four hmod
  refine ck_congr fun k hk h5 => ?_
  rw [headerWord_append (by rw [ipImage_length]; omega), headerWord_ipImage_of_ne p c 0 h5]

/-! ### IP_SERIALIZE -/

theorem exec_ipSerialize {s : State} (hv : s.ipV = true) (htl : s.ip.totalLen ≤ 0xFFFF) :
    exec .ipSerialize s = .next ((s.emit (ipBytes s.ip)).setStatus .ok) := by
  refine exec_of_success ?_
  rw [raised, hv]
  exact if_neg (Nat.not_lt.mpr htl)

/-- Settles O33: past the two checks the command writes the packet as output. -/
theorem ipSerializeWritesPacket : Obligations.IpSerializeWritesPacket := by
  refine ⟨decode_encode .ipSerialize, ?_⟩
  rintro s _ rfl
  refine ⟨fun hv hle => ?_, fun hv hgt => exec_of_failure ?_, fun hclear => ?_⟩
  · refine ⟨_, exec_ipSerialize hv hle, ?_, emitted_emit s (ipBytes s.ip)⟩
    exact congrArg (BitVec.ofNat 32) (ipBytes_length s.ip)
  · rw [raised, hv]
    exact if_pos hgt
  · exact (instanceCheckComesFirst .ipSerialize s).1 (congrArg some hclear)

/-! ### Parsing what was written -/

/-- A command that ends with OK made no failing check (R80, R81). -/
theorem exec_ok {i : Instr} {s t : State} (h : exec i s = .next t) (hok : t.status = .ok) :
    raised s i = none ∧ t = (effect s i).setStatus .ok := by
  obtain ⟨c, hraised, rfl⟩ | hpass := exec_next h
  · exact absurd hok (failure_ne_ok hraised)
  · exact hpass

/-- Output copied into the input buffer of any state is that state's input (R59, R64). -/
theorem input_of_emitted {s t v : State} {o : Bytes} (h : Emitted s t o) (ho : o.length < 2 ^ 32)
    (hlen : v.ibufLen = t.obufLen)
    (hcells : ∀ i, i < t.obufLen.toNat → Memory.read v.ibuf i = Memory.read t.obuf i) : input v = o := by
  obtain ⟨-, hobufLen, hobuf, -⟩ := h
  have hlength : t.obufLen.toNat = o.length := by rw [hobufLen, BitVec.toNat_ofNat, Nat.mod_eq_of_lt ho]
  refine List.ext_getElem (by rw [input_length, hlen, hlength]) fun i hi hio => ?_
  have hread : Memory.read v.ibuf i = some o[i] :=
    (hcells i (hlength ▸ hio)).trans (hobuf i _ (List.getElem?_eq_getElem hio))
  rw [input_getElem, ibufByte, hread, Option.getD_some]

section

variable {p : IpSet} (hmod : p.opt.length % 4 = 0) (hle : p.opt.length ≤ 40) (htl : p.totalLen ≤ 0xFFFF)
include hmod hle htl

/-- IP_PARSE accepts a written packet: its checksum field holds the checksum of its header (R110). -/
theorem ipParseError_ipBytes : ipParseError (ipBytes p) p.totalLen = none := by
  have hihl := ihl_mul_four hmod
  have htotal : p.totalLen = 20 + p.opt.length + p.pay.length := rfl
  rw [ipParseError_eq_none, ipBytes, ihlOf_ipImage p _ _ hle, totalLenOf_ipImage p _ _ htl, ck_ipImage hmod]
  exact ⟨by omega, versionOf_ipImage p _ _ hle, by omega, by omega, le_rfl, (be16At_ipImage_cksum p _ _).symm⟩

/-- A written packet parses to the packet it was written from. -/
theorem ipOfBytes_ipBytes : ipOfBytes (ipBytes p) = p := by
  have hhl : (ipImage p (ipChecksum p)).length = p.ihl * 4 := by rw [ipImage_length, ihl_mul_four hmod]
  have hihl : ihlOf (ipBytes p) = p.ihl := ihlOf_ipImage p _ _ hle
  have htotal : totalLenOf (ipBytes p) = p.totalLen := totalLenOf_ipImage p _ _ htl
  have hid : be16At (ipBytes p) 4 = p.id := be16At_ipImage_id p _ _
  have hflags : (byteAt (ipBytes p) 6).extractLsb' 5 3 = p.flags := flags_ipImage p _ _
  have hfrag : (byteAt (ipBytes p) 6).extractLsb' 0 5 ++ byteAt (ipBytes p) 7 = p.frag := frag_ipImage p _ _
  have hsrc : fixedBytes 4 (slice (ipBytes p) 12 16) = p.src := by
    rw [slice, ipBytes, src_ipImage, fixedBytes_self]
  have hdst : fixedBytes 4 (slice (ipBytes p) 16 20) = p.dst := by
    rw [slice, ipBytes, dst_ipImage, fixedBytes_self]
  have hopt : slice (ipBytes p) 20 (p.ihl * 4) = p.opt := by
    rw [slice, ipBytes, drop20_ipImage, ihl_mul_four hmod, List.take_left' (by omega)]
  have hpay : slice (ipBytes p) (p.ihl * 4) p.totalLen = p.pay := by
    rw [slice, ipBytes, List.drop_left' hhl, List.take_of_length_le]
    rw [ihl_mul_four hmod, IpSet.totalLen]
    omega
  rw [ipOfBytes, hihl, htotal, hid, hflags, hfrag, hsrc, hdst, hopt, hpay]
  rfl

end

/-- Settles O37: the input is the written packet, which IP_PARSE accepts and reads back. -/
theorem ipSerializeThenParseRecoversPacket : Obligations.IpSerializeThenParseRecoversPacket := by
  intro s t v hexec hok hmod hle hlen hcells
  obtain ⟨hpass, rfl⟩ := exec_ok hexec hok
  have htl : s.ip.totalLen ≤ 0xFFFF := by
    obtain ⟨-, hcheck⟩ := checkValid_none hpass
    exact Nat.not_lt.mp fun hgt => nomatch (if_pos hgt).symm.trans hcheck
  have hinput : input v = ipBytes s.ip :=
    input_of_emitted (emitted_emit s _) (by rw [ipBytes_length]; omega) hlen hcells
  have hlength : v.ibufLen.toNat = s.ip.totalLen := by rw [← input_length, hinput, ipBytes_length]
  rw [exec_ipParse (by rw [hinput, hlength]; exact ipParseError_ipBytes hmod hle htl), hinput,
    ipOfBytes_ipBytes hmod hle htl]

/-! ### Writing what was parsed -/

section

variable {b : Bytes}

/-- A byte whose high nibble is 4 is its low nibble under it (R73). -/
theorem headerByte_eq : ∀ x : Byte, (x.extractLsb' 4 4).toNat = 4 →
    0x40 ||| BitVec.ofNat 8 (x.extractLsb' 0 4).toNat = x := by
  decide

/-- Two bytes of a sequence that stand side by side. -/
theorem pair_byteAt {i : Nat} (h : i + 2 ≤ b.length) : [byteAt b i, byteAt b (i + 1)] = (b.drop i).take 2 := by
  rw [← bytes16_be16At h, be16At, bytes16_be16]

/-- The high three bits of a byte and the 13 bits that its other five begin, written again (R73, R92). -/
theorem flags_frag_bytes (x y : Byte) :
    [x.extractLsb' 5 3 ++ (x.extractLsb' 0 5 ++ y).extractLsb' 8 5, (x.extractLsb' 0 5 ++ y).extractLsb' 0 8] =
      [x, y] := by
  have hhigh : (x.extractLsb' 0 5 ++ y).extractLsb' 8 5 = x.extractLsb' 0 5 := BitVec.extractLsb'_append_eq_left
  have hlow : (x.extractLsb' 0 5 ++ y).extractLsb' 0 8 = y := BitVec.extractLsb'_append_eq_right
  have hbyte : x.extractLsb' 5 3 ++ x.extractLsb' 0 5 = x :=
    (BitVec.extractLsb'_append_extractLsb'_eq_extractLsb' rfl).trans BitVec.extractLsb'_eq_self
  rw [hhigh, hlow, hbyte]

theorem ipOfBytes_opt_length (hhl : ihlOf b * 4 ≤ b.length) : (ipOfBytes b).opt.length = ihlOf b * 4 - 20 :=
  slice_length hhl

theorem ipOfBytes_pay_length (htl : totalLenOf b ≤ b.length) :
    (ipOfBytes b).pay.length = totalLenOf b - ihlOf b * 4 := slice_length htl

variable (h5 : 5 ≤ ihlOf b) (hhl : ihlOf b * 4 ≤ totalLenOf b) (htl : totalLenOf b ≤ b.length)
include h5 hhl htl

theorem ipOfBytes_ihl : (ipOfBytes b).ihl = ihlOf b := by
  rw [IpSet.ihl, ipOfBytes_opt_length (hhl.trans htl)]
  omega

theorem ipOfBytes_totalLen : (ipOfBytes b).totalLen = totalLenOf b := by
  rw [IpSet.totalLen, ipOfBytes_opt_length (hhl.trans htl), ipOfBytes_pay_length htl]
  omega

/-- The header image of a parsed packet, with the checksum it came with, is the packet's header: the parts of the image
are the parts of the input side by side. -/
theorem ipImage_ipOfBytes (hver : versionOf b = 4) :
    ipImage (ipOfBytes b) (be16At b 10) ++ b.drop (ihlOf b * 4) = b := by
  have hfirst : [0x40 ||| BitVec.ofNat 8 (ipOfBytes b).ihl, (ipOfBytes b).tos] = b.take 2 := by
    rw [ipOfBytes_ihl h5 hhl htl, ihlOf, headerByte_eq _ hver]
    exact pair_byteAt (i := 0) (by omega)
  have htotal : bytes16 (BitVec.ofNat 16 (ipOfBytes b).totalLen) = (b.drop 2).take 2 := by
    rw [ipOfBytes_totalLen h5 hhl htl, totalLenOf, BitVec.ofNat_toNat, BitVec.setWidth_eq, bytes16_be16At (by omega)]
  have hid : bytes16 (ipOfBytes b).id = (b.drop 4).take 2 := bytes16_be16At (by omega)
  have hfrag : [(ipOfBytes b).flags ++ (ipOfBytes b).frag.extractLsb' 8 5, (ipOfBytes b).frag.extractLsb' 0 8] =
      (b.drop 6).take 2 := (flags_frag_bytes _ _).trans (pair_byteAt (by omega))
  have hproto : [(ipOfBytes b).ttl, (ipOfBytes b).proto] = (b.drop 8).take 2 := pair_byteAt (by omega)
  have hck : bytes16 (be16At b 10) = (b.drop 10).take 2 := bytes16_be16At (by omega)
  have hsrc : (ipOfBytes b).src.toList = (b.drop 12).take 4 := fixedBytes_slice (by omega)
  have hdst : (ipOfBytes b).dst.toList = (b.drop 16).take 4 := fixedBytes_slice (by omega)
  have hopt : (ipOfBytes b).opt ++ b.drop (ihlOf b * 4) = b.drop 20 := by
    have := take_append_drop_add b 20 (ihlOf b * 4 - 20)
    rwa [Nat.add_sub_cancel' (by omega)] at this
  simp only [ipImage, hfirst, htotal, hid, hfrag, hproto, hck, hsrc, hdst, hopt, List.append_assoc]
  rw [take_append_drop_add b 16 4, take_append_drop_add b 12 4, take_append_drop_add b 10 2,
    take_append_drop_add b 8 2, take_append_drop_add b 6 2, take_append_drop_add b 4 2, take_append_drop_add b 2 2,
    List.take_append_drop]

/-- A parsed packet is written again as it came, up to its total length: the checksum that was verified is the one that
is computed (R91, R93). -/
theorem ipBytes_ipOfBytes (hver : versionOf b = 4) (hck : ck b (2 * ihlOf b) = be16At b 10) :
    ipBytes (ipOfBytes b) = b.take (totalLenOf b) := by
  have himage := ipImage_ipOfBytes h5 hhl htl hver
  have hoptlen := ipOfBytes_opt_length (hhl.trans htl)
  have hlen : (ipImage (ipOfBytes b) (be16At b 10)).length = ihlOf b * 4 := by
    rw [ipImage_length, hoptlen]
    omega
  have hsum : ipChecksum (ipOfBytes b) = be16At b 10 := by
    rw [← ck_ipImage (by omega) (be16At b 10) (b.drop (ihlOf b * 4)), himage, ipOfBytes_ihl h5 hhl htl, hck]
  have hheader : ipImage (ipOfBytes b) (be16At b 10) = b.take (ihlOf b * 4) := by
    rw [← List.take_left' hlen, himage]
  have hpay : (ipOfBytes b).pay = (b.drop (ihlOf b * 4)).take (totalLenOf b - ihlOf b * 4) := rfl
  rw [ipBytes, hsum, hheader, hpay, ← List.take_add, Nat.add_sub_cancel' hhl]

end

/-- Settles O38: the parsed packet is valid, its total length is a 16-bit field, and its bytes are the input's. -/
theorem ipParseThenSerializeReproducesPacket : Obligations.IpParseThenSerializeReproducesPacket := by
  intro s t hexec hok
  obtain ⟨hpass, rfl⟩ := exec_ok hexec hok
  obtain ⟨-, hver, h5, hhl, htl, hck⟩ := ipParseError_eq_none.mp hpass
  have htl' : totalLenOf (input s) ≤ (input s).length := input_length s ▸ htl
  have hfits : (ipOfBytes (input s)).totalLen ≤ 0xFFFF := by
    rw [ipOfBytes_totalLen h5 hhl htl']
    exact Nat.le_of_lt_succ (BitVec.isLt _)
  refine ⟨_, exec_ipSerialize rfl hfits, ?_⟩
  show Emitted _ _ ((input s).take (totalLenOf (input s)))
  rw [← ipBytes_ipOfBytes h5 hhl htl' hver hck]
  exact emitted_emit _ _

end Sys2Proof.Machine

/-! ## The checksum engine

R104 to R112. CK is a function of one natural number, the sum of the words that are summed: the 32-bit accumulator holds
that number, which gives the bounds of R105, the comparison with the full fold (R108) and that the order of the words does
not matter (R112). -/

namespace Sys2Proof.Machine

/-! ### The words that are summed -/

section

variable (h : Bytes) (n : Nat)

/-- The words CK sums: words `0 .. n-1` other than word 5 (R104). -/
def checksumWords : List Half := ((List.range n).filter fun k => k != 5).map (headerWord h)

theorem checksumWords_succ :
    checksumWords h (n + 1) = checksumWords h n ++ if n = 5 then [] else [headerWord h n] := by
  by_cases h5 : n = 5 <;> simp [checksumWords, List.range_succ, h5]

/-- The accumulator holds the sum of those words modulo 2^32 (R104). -/
theorem ckSum_eq_ofNat : ckSum h n = BitVec.ofNat 32 ((checksumWords h n).map BitVec.toNat).sum := by
  induction n with
  | zero => rfl
  | succ n ih =>
    rw [ckSum_succ, checksumWords_succ, ih]
    by_cases h5 : n = 5
    · rw [if_pos h5, if_pos h5, List.append_nil]
    · rw [if_neg h5, if_neg h5, List.map_append, List.sum_append, List.map_singleton, List.sum_singleton,
        BitVec.ofNat_add, ← BitVec.ofNat_toNat]

end

/-! ### The fold -/

/-- The fold adds the two halves exactly: two 16-bit numbers do not wrap 32 bits (R104, R106). -/
theorem foldOnce_toNat (w : Word) : (foldOnce w).toNat = w.toNat % 0x10000 + w.toNat / 0x10000 := by
  have hhigh : w.toNat / 2 ^ 16 < 2 ^ 16 := Nat.div_lt_of_lt_mul w.isLt
  rw [foldOnce, BitVec.toNat_add, BitVec.toNat_setWidth_of_le (by decide), BitVec.toNat_setWidth_of_le (by decide),
    BitVec.extractLsb'_toNat, BitVec.extractLsb'_toNat, Nat.shiftRight_zero, Nat.shiftRight_eq_div_pow,
    Nat.mod_eq_of_lt hhigh]
  omega

section

variable (h : Bytes) (n : Nat)

/-- CK is the NOT of the low half of the folded value (R104). -/
theorem ck_eq_not_extractLsb' : ck h n = ~~~ (foldOnce (ckSum h n)).extractLsb' 0 16 :=
  BitVec.extractLsb'_not_of_lt (by decide)

theorem ck_eq_not_ofNat : ck h n = ~~~ BitVec.ofNat 16 (foldOnce (ckSum h n)).toNat := by
  rw [ck_eq_not_extractLsb']
  rfl

/-- The full fold folds the folded value again (R108). -/
theorem fullFold_ckSum : fullFold (ckSum h n).toNat =
    (foldOnce (ckSum h n)).toNat % 0x10000 + (foldOnce (ckSum h n)).toNat / 0x10000 := by
  rw [foldOnce_toNat]
  rfl

end

/-! ### The bounds of R105 -/

section

variable (h : Bytes) {n : Nat} (h6 : 6 ≤ n)
include h6

/-- One word of `n` is left out. -/
theorem checksumWords_length : (checksumWords h n).length = n - 1 := by
  have h5 : 5 ∈ List.range n := List.mem_range.mpr h6
  rw [checksumWords, List.length_map, ← List.nodup_range.erase_eq_filter, List.length_erase_of_mem h5,
    List.length_range]

variable (h30 : n ≤ 30)
include h30

/-- At most 29 words of at most 0xFFFF each. -/
theorem checksumWords_sum_le : ((checksumWords h n).map BitVec.toNat).sum ≤ 0x1CFFE3 := by
  have hword : ∀ x ∈ (checksumWords h n).map BitVec.toNat, x ≤ 0xFFFF := by
    intro x hx
    obtain ⟨w, -, rfl⟩ := List.mem_map.mp hx
    exact Nat.le_of_lt_succ w.isLt
  have hsum := List.sum_le_card_nsmul _ _ hword
  rw [List.length_map, checksumWords_length h h6, smul_eq_mul] at hsum
  omega

/-- The accumulator does not wrap. -/
theorem ckSum_toNat : (ckSum h n).toNat = ((checksumWords h n).map BitVec.toNat).sum := by
  have hle := checksumWords_sum_le h h6 h30
  rw [ckSum_eq_ofNat, BitVec.toNat_ofNat, Nat.mod_eq_of_lt (by omega)]

/-- The folded value has at most one carry above its 16 bits, and at most 0x1B in them if it has one. -/
theorem foldOnce_ckSum_le : (foldOnce (ckSum h n)).toNat ≤ 0x1001B := by
  have hle := checksumWords_sum_le h h6 h30
  rw [foldOnce_toNat, ckSum_toNat h h6 h30]
  omega

end

/-- Word 5 of the image is the checksum value (R92). -/
theorem headerWord_ipImage_five (p : IpSet) (c : Half) : headerWord (ipImage p c) 5 = c := be16_bytes16 c

/-! ### The obligations -/

/-- Settles O39: the accumulator holds the sum of the summed words, and CK is the NOT of its fold. -/
theorem checksumIsSingleFold : Obligations.ChecksumIsSingleFold := by
  rintro h n _ _ h6 h30 rfl rfl
  have hwords : (((List.range n).filter fun k => k != 5).map fun k => (headerWord h k).toNat) =
      (checksumWords h n).map BitVec.toNat := by
    rw [checksumWords, List.map_map]
    rfl
  rw [hwords, ck_eq_not_extractLsb']
  refine ⟨ckSum_toNat h h6 h30, checksumWords_sum_le h h6 h30, ?_, foldOnce_ckSum_le h h6 h30, rfl, ?_, ?_⟩
  · rw [foldOnce_toNat, ckSum_toNat h h6 h30]
  · exact BitVec.not_eq_comm
  · exact BitVec.not_eq_comm

/-- Settles O40: without a carry the folded value is its own full fold; a carry is one that the full fold adds and CK
drops, and a value less by one has a NOT greater by one. -/
theorem checksumVersusFullFold : Obligations.ChecksumVersusFullFold := by
  intro h n h6 h30
  have hle := foldOnce_ckSum_le h h6 h30
  rw [fullFold_ckSum, ck_eq_not_ofNat]
  generalize (foldOnce (ckSum h n)).toNat = f at hle ⊢
  refine ⟨by omega, fun hfits => ?_, fun hcarry => ?_⟩
  · rw [Nat.mod_eq_of_lt (by omega), Nat.div_eq_of_lt (by omega), Nat.add_zero]
  · have hfull : BitVec.ofNat 16 (f % 0x10000 + f / 0x10000) = BitVec.ofNat 16 f + 1#16 := by
      have hone : f / 0x10000 = 1 := by omega
      have hlow : BitVec.ofNat 16 (f % 0x10000) = BitVec.ofNat 16 f := BitVec.eq_of_toNat_eq (by simp)
      rw [hone, BitVec.ofNat_add, hlow]
    rw [hfull, BitVec.not_eq_neg_add, BitVec.not_eq_neg_add]
    ring

/-- Settles O41: CK does not read word 5, and the image holds its checksum value in word 5 alone. -/
theorem checksumIgnoresItsOwnWord : Obligations.ChecksumIgnoresItsOwnWord := by
  have himage (p : IpSet) (c : Half) (n : Nat) : ck (ipImage p c) n = ck (ipImage p 0) n :=
    ck_congr fun _ _ h5 => headerWord_ipImage_of_ne p c 0 h5
  exact ⟨fun _ _ _ => ck_congr, himage, fun p n => (headerWord_ipImage_five p _).trans (himage p _ n).symm⟩

/-- Settles O42: CK depends on the sum of the summed words only, and a sum does not depend on the order. -/
theorem checksumIgnoresWordOrder : Obligations.ChecksumIgnoresWordOrder := by
  intro h h' n hperm
  have hwords : (checksumWords h n).Perm (checksumWords h' n) := hperm
  rw [ck, ck, ckSum_eq_ofNat, ckSum_eq_ofNat, (hwords.map BitVec.toNat).sum_eq]

/-- Settles O43: each clause is a case of the cascade of checks. -/
theorem ipCksumWritesChecksum : Obligations.IpCksumWritesChecksum := by
  refine ⟨decode_encode .ipCksum, ?_⟩
  rintro s _ rfl
  refine ⟨fun hshort => exec_of_failure (if_pos hshort), fun h20 hihl => exec_of_failure ?_,
    fun h20 hihl hshort => exec_of_failure ?_, fun h20 hihl hlen => exec_of_success ?_⟩
  · exact (if_neg (Nat.not_lt.mpr h20)).trans (if_pos hihl)
  · exact (if_neg (Nat.not_lt.mpr h20)).trans ((if_neg (Nat.not_lt.mpr hihl)).trans (if_pos hshort))
  · exact (if_neg (Nat.not_lt.mpr h20)).trans ((if_neg (Nat.not_lt.mpr hihl)).trans (if_neg (Nat.not_lt.mpr hlen)))

end Sys2Proof.Machine

/-! ## The Prefix Information unit

R113 to R122. A PI command acts on `PIsel` and tests `Vsel` (R61), so one spec per command serves both sets. The flag
setters are numeric setters whose value is written through `setFlag`. The RA output ends with the option of RA.PI (R123),
which gives the embedding. -/

namespace Sys2Proof.Machine

/-! ### Setters -/

section

variable {i : Instr} {w : Word} {valid : State → Bool}

/-- A command with the valid bit as its only check is a word setter of what it commits (R82). -/
theorem wordSetter_of_effect {f : State → State} (hw : decode w = .ok i)
    (hraised : ∀ s, raised s i = checkValid (valid s) none)
    (heffect : ∀ s, (effect s i).setStatus .ok = { f s with status := .ok }) : WordSetter w i valid f := by
  refine ⟨hw, fun s => ⟨fun hv => ?_, fun hclear => ?_⟩⟩
  · rw [exec_of_success ((hraised s).trans (if_pos hv)), heffect]
  · refine exec_of_failure ?_
    rw [hraised, hclear]
    rfl

/-- A numeric setter of limit 1 that commits `setFlag` of a flag byte is a flag setter: no other byte has that one bit
written (R116). -/
theorem flagSetter_of_effect {n : Nat} (hn : n < 8) {flags : State → Byte} {f : Byte → State → State}
    (hw : decode w = .ok i) (hlimit : numericLimit i = some 1) (hvalid : ∀ s, instanceBit s i = some (valid s))
    (heffect : ∀ s, (effect s i).setStatus .ok =
      { f (setFlag (flags s) n (s.operand.getLsbD 0)) s with status := .ok }) :
    FlagSetter w i valid n flags f := by
  refine ⟨hw, fun s => ?_⟩
  obtain ⟨hset, hlarge, hclear⟩ := (numericSetter_of_effect hw hlimit hvalid heffect).2 s
  refine ⟨fun b hv hle hb => ?_, hlarge, hclear⟩
  rw [(flagWritten_iff hn).mp hb]
  exact hset hv hle

end

/-- Settles O46: each command is a flag setter of its own bit, on either set. -/
theorem piFlagSetters : Obligations.PiFlagSetters :=
  ⟨flagSetter_of_effect (by decide) (decode_encode (.piSetOnlink .standalone)) rfl (fun _ => rfl) fun _ => rfl,
    flagSetter_of_effect (by decide) (decode_encode (.piSetOnlink .routerAdv)) rfl (fun _ => rfl) fun _ => rfl,
    flagSetter_of_effect (by decide) (decode_encode (.piSetAuto .standalone)) rfl (fun _ => rfl) fun _ => rfl,
    flagSetter_of_effect (by decide) (decode_encode (.piSetAuto .routerAdv)) rfl (fun _ => rfl) fun _ => rfl,
    flagSetter_of_effect (by decide) (decode_encode (.piSetRouter .standalone)) rfl (fun _ => rfl) fun _ => rfl,
    flagSetter_of_effect (by decide) (decode_encode (.piSetRouter .routerAdv)) rfl (fun _ => rfl) fun _ => rfl⟩

/-- Settles O47: each command is a word setter of its own lifetime, on either set. -/
theorem piLifetimeSetters : Obligations.PiLifetimeSetters :=
  ⟨wordSetter_of_effect (decode_encode (.piSetValidLt .standalone)) (fun _ => rfl) fun _ => rfl,
    wordSetter_of_effect (decode_encode (.piSetValidLt .routerAdv)) (fun _ => rfl) fun _ => rfl,
    wordSetter_of_effect (decode_encode (.piSetPrefLt .standalone)) (fun _ => rfl) fun _ => rfl,
    wordSetter_of_effect (decode_encode (.piSetPrefLt .routerAdv)) (fun _ => rfl) fun _ => rfl⟩

/-- Settles O48: PI_SET_PLEN is a numeric and PI_SET_PREFIX an address setter of its own field, on either set. -/
theorem piPrefixSetters : Obligations.PiPrefixSetters :=
  ⟨numericSetter_of_effect (decode_encode (.piSetPlen .standalone)) rfl (fun _ => rfl) fun _ => rfl,
    numericSetter_of_effect (decode_encode (.piSetPlen .routerAdv)) rfl (fun _ => rfl) fun _ => rfl,
    addressSetter_of_effect (decode_encode (.piSetPrefix .standalone)) (fun _ => rfl) fun _ => rfl,
    addressSetter_of_effect (decode_encode (.piSetPrefix .routerAdv)) (fun _ => rfl) fun _ => rfl⟩

/-! ### PI_CREATE -/

/-- Settles O44: an address input has the one length that passes the address check, which comes before the width check. -/
theorem piCreateBuildsOption : Obligations.PiCreateBuildsOption := by
  refine ⟨decode_encode .piCreate, fun s => ⟨fun a ha hle => ?_, fun hlen => ?_, fun hlen hgt => ?_⟩⟩
  · have hlen : s.ibufLen.toNat = 16 := by rw [← input_length, ha, Vector.length_toList]
    have hpass : raised s .piCreate = none := (checkAddress_eq hlen _).trans (if_pos hle)
    rw [exec_of_success hpass, effect, ha, fixedBytes_self]
    rfl
  · exact addressCheckRaises .piCreate s 16 rfl hlen nofun
  · exact widthCheckRaises .piCreate s 0xFF rfl hgt (.inr ⟨rfl, hlen⟩)

/-! ### PI_SERIALIZE -/

/-- A flag byte as it is read: its bits 7:5, and bits 4:0 hardwired 0 (R31, R32). -/
theorem flagByte_eq_append (f : Byte) : flagByte f = f.extractLsb' 5 3 ++ 0#5 := by
  revert f
  decide

theorem exec_piSerialize {s : State} {x : PiSel} (h : s.vSel x = true) :
    exec (.piSerialize x) s = .next ((s.emit (piBytes (s.piSel x))).setStatus .ok) :=
  exec_of_success (if_pos h)

/-- Settles O45: past the valid-bit check the command writes the option of the selected set as output. -/
theorem piSerializeWritesOption : Obligations.PiSerializeWritesOption := by
  refine ⟨decode_encode (.piSerialize .standalone), decode_encode (.piSerialize .routerAdv), fun s x p v hpi hra => ?_⟩
  obtain ⟨rfl, rfl⟩ : p = s.piSel x ∧ v = s.vSel x := by
    cases x with
    | standalone => exact hpi rfl
    | routerAdv => exact hra rfl
  refine ⟨fun hv => ⟨_, exec_piSerialize hv, congrArg (BitVec.ofNat 32) (piBytes_length _), ?_⟩, fun hclear => ?_⟩
  · rw [← flagByte_eq_append]
    exact emitted_emit s (piBytes (s.piSel x))
  · exact (instanceCheckComesFirst (.piSerialize x) s).1 (congrArg some hclear)

/-! ### The option inside a Router Advertisement -/

theorem exec_raSerialize {s : State} (h : s.raV = true) :
    exec .raSerialize s = .next ((s.emit (raBytes s.ra)).setStatus .ok) :=
  exec_of_success (if_pos h)

/-- The Router Advertisement is sixteen bytes and then the option of its own PI set (R75, R123). -/
theorem drop16_raBytes (r : RaSet) : (raBytes r).drop 16 = piBytes r.pi := rfl

theorem raBytes_getElem? (r : RaSet) (i : Nat) : (raBytes r)[16 + i]? = (piBytes r.pi)[i]? := by
  rw [← drop16_raBytes, List.getElem?_drop]

/-- Settles O51: a cell below 32 of the second output and its counterpart in the first hold the same byte of the option;
the later cells are past the second output. -/
theorem raOutputEmbedsPrefixOption : Obligations.RaOutputEmbedsPrefixOption := by
  intro s hv
  obtain ⟨-, -, hmessage, -⟩ := emitted_emit s (raBytes s.ra)
  obtain ⟨-, -, hoption, hlater, -⟩ := emitted_emit ((s.emit (raBytes s.ra)).setStatus .ok) (piBytes s.ra.pi)
  rw [piBytes_length] at hlater
  refine ⟨_, _, exec_raSerialize hv, exec_piSerialize hv, fun i hi => ?_, hlater,
    congrArg (BitVec.ofNat 32) (piBytes_length s.ra.pi)⟩
  have hbyte : (piBytes s.ra.pi)[i]? = some _ := List.getElem?_eq_getElem (by rwa [piBytes_length])
  exact (hoption i _ hbyte).trans (hmessage (16 + i) _ ((raBytes_getElem? s.ra i).trans hbyte)).symm

end Sys2Proof.Machine

/-! ## The Router Advertisement unit

R123 to R132. The setters are of the same kinds as those of the IPv4 and Prefix Information units; RA_CREATE makes the address
check alone, and RA_SERIALIZE's write of `raBytes` stands above with the embedding of the option. -/

namespace Sys2Proof.Machine

/-- Settles O52: each command is a flag setter of its own bit of RA.FLAGS. -/
theorem raFlagSetters : Obligations.RaFlagSetters :=
  ⟨flagSetter_of_effect (by decide) (decode_encode .raSetManaged) rfl (fun _ => rfl) fun _ => rfl,
    flagSetter_of_effect (by decide) (decode_encode .raSetOther) rfl (fun _ => rfl) fun _ => rfl,
    flagSetter_of_effect (by decide) (decode_encode .raSetHomeagent) rfl (fun _ => rfl) fun _ => rfl⟩

/-- Settles O53: RA_SET_CHL and RA_SET_DEFLT are numeric setters, RA_SET_REACH and RA_SET_RETRANS word setters, each of its
own field. -/
theorem raNumericSetters : Obligations.RaNumericSetters :=
  ⟨numericSetter_of_effect (decode_encode .raSetChl) rfl (fun _ => rfl) fun _ => rfl,
    numericSetter_of_effect (decode_encode .raSetDeflt) rfl (fun _ => rfl) fun _ => rfl,
    wordSetter_of_effect (decode_encode .raSetReach) (fun _ => rfl) fun _ => rfl,
    wordSetter_of_effect (decode_encode .raSetRetrans) (fun _ => rfl) fun _ => rfl⟩

/-- Settles O49: an address input has the one length that passes the address check, the command's only check, so OPERAND is
never looked at. -/
theorem raCreateBuildsMessage : Obligations.RaCreateBuildsMessage := by
  refine ⟨decode_encode .raCreate, fun s => ⟨fun a ha => ?_, fun hlen => ?_⟩⟩
  · have hlen : s.ibufLen.toNat = 16 := by rw [← input_length, ha, Vector.length_toList]
    have hpass : raised s .raCreate = none := checkAddress_eq hlen none
    rw [exec_of_success hpass, effect, ha, fixedBytes_self]
    rfl
  · exact addressCheckRaises .raCreate s 16 rfl hlen nofun

/-- Settles O50: past the valid-bit check the command writes the message as output. -/
theorem raSerializeWritesMessage : Obligations.RaSerializeWritesMessage := by
  refine ⟨decode_encode .raSerialize, fun s => ⟨fun hv => ?_, fun hclear => ?_⟩⟩
  · refine ⟨_, exec_raSerialize hv, congrArg (BitVec.ofNat 32) (raBytes_length _), ?_⟩
    rw [← flagByte_eq_append]
    exact emitted_emit s (raBytes s.ra)
  · exact (instanceCheckComesFirst .raSerialize s).1 (congrArg some hclear)

end Sys2Proof.Machine

/-! ## Status codes and the idle block

R133, R134, R137, R146. A command ends with OK or with the code of its first failing check; each check has one code (IP_PARSE
and IP_CKSUM a cascade of them), so the codes of a command are those of its checks. -/

namespace Sys2Proof.Machine

/-! ### The code numbers and the idle step -/

/-- Settles O13: each number is that of its name, and the bound holds for each of the twelve names. -/
theorem statusCodeNumbers : Obligations.StatusCodeNumbers := by
  refine ⟨rfl, rfl, rfl, rfl, rfl, rfl, rfl, rfl, rfl, rfl, rfl, rfl, fun c => ?_⟩
  cases c <;> decide

/-- Settles O4: past the script's end there is no next action. -/
theorem idleStepKeepsAllState : Obligations.IdleStepKeepsAllState :=
  fun _ hend => step_idle (List.getElem?_eq_none hend)

/-! ### The codes of a command -/

section

variable {s : State} {c : Status} {rest : Option Status} {n : Nat}

/-- The valid-bit check has the one code NotConstructed; another comes from the checks behind it (R82). -/
theorem checkValid_some {v : Bool} (h : checkValid v rest = some c) : c = .notConstructed ∨ rest = some c := by
  cases v with
  | false => exact .inl (Option.some.inj h).symm
  | true => exact .inr h

/-- The width check has the one code ValueTooLarge (R83). -/
theorem checkWidth_some (h : checkWidth n s = some c) : c = .valueTooLarge := by
  unfold checkWidth at h
  split_ifs at h
  exact (Option.some.inj h).symm

/-- The address check has the one code AddressFamilyMismatch; another comes from the checks behind it (R84). -/
theorem checkAddress_some (h : checkAddress n s rest = some c) : c = .addressFamilyMismatch ∨ rest = some c := by
  unfold checkAddress at h
  split_ifs at h
  · exact .inr h
  · exact .inl (Option.some.inj h).symm

/-- A command raises only codes that R134 lists for it. -/
theorem raised_mem_codesOf {i : Instr} (h : raised s i = some c) : c ∈ codesOf i := by
  cases i with
  | ipNew => cases h
  | ethParse | ipParse | ipCksum =>
    simp only [raised, ipParseError] at h
    split_ifs at h <;> cases h <;> decide
  | ipSerialize | ipSetOptions =>
    obtain rfl | h := checkValid_some h
    · decide
    · split_ifs at h
      cases h
      decide
  | ethSerialize | ipSetPayload | piSerialize | piSetValidLt | piSetPrefLt | raSerialize | raSetReach | raSetRetrans =>
    obtain rfl | h := checkValid_some h
    · simp [codesOf]
    · cases h
  | ipSetTos | ipSetId | ipSetTtl | ipSetProto | piSetOnlink | piSetAuto | piSetRouter | piSetPlen
  | raSetChl | raSetManaged | raSetOther | raSetHomeagent | raSetDeflt =>
    obtain rfl | h := checkValid_some h
    · simp [codesOf]
    · simp [codesOf, checkWidth_some h]
  | ipSetSrc | ipSetDst | piSetPrefix =>
    obtain rfl | h := checkValid_some h
    · simp [codesOf]
    · obtain rfl | h := checkAddress_some h
      · simp [codesOf]
      · cases h
  | piCreate =>
    obtain rfl | h := checkAddress_some h
    · decide
    · simp [codesOf, checkWidth_some h]
  | raCreate =>
    obtain rfl | h := checkAddress_some h
    · decide
    · cases h

end

/-- OK is among the codes of every command. -/
theorem ok_mem_codesOf (i : Instr) : .ok ∈ codesOf i := by
  cases i <;> exact List.mem_cons_self

/-- Settles O12: a command that raises writes a code of its checks, and one that commits ends with OK. -/
theorem codesOfEachCommand : Obligations.CodesOfEachCommand := by
  intro i s t h
  obtain ⟨c, hraised, rfl⟩ | ⟨-, rfl⟩ := exec_next h
  · exact raised_mem_codesOf hraised
  · exact ok_mem_codesOf i

end Sys2Proof.Machine

/-! ## The reset event

R147. The event leaves the host's side alone and gives every element of R13 its value in the reset state (R38). -/

namespace Sys2Proof.Machine

/-- The reset event faults in no state. -/
theorem hostStep_reset (s : State) : hostStep .reset s = .next s.resetBlock := rfl

/-- With the host's side and the draw at their reset values too, the block after the event is the reset state. -/
theorem State.resetBlock_with_reset_host (s : State) :
    { s.resetBlock with host := State.reset.host, draw := State.reset.draw } = State.reset := rfl

/-- Settles O2: the next state is `resetBlock`, which differs from the reset state in the host's side and the draw alone. -/
theorem resetEventRestoresResetState : Obligations.ResetEventRestoresResetState := by
  intro s
  exact ⟨s.resetBlock, hostStep_reset s, s.resetBlock_host, s.resetBlock_with_reset_host⟩

end Sys2Proof.Machine
